-- ==== Sys2Proof/Word.lean ====
section
/-! DEFINITION. The word types of the machine (00_scope.md R7, R8): everything the spec treats as a
string of bits, each at the one width the spec gives it. -/

namespace Sys2Proof

/-- A byte: a general register, a timer, a byte of memory (10_state.md R21, R24, R25, R29). -/
abbrev Byte := BitVec 8

/-- A 16-bit word: the program counter, I, a stack slot, an instruction (10_state.md R20, R23, R27). -/
abbrev Word := BitVec 16

/-- A 12-bit address field `nnn` (30_encoding.md R71). -/
abbrev Addr := BitVec 12

/-- A register index, the field `x` or `y` (30_encoding.md R71): 0 is V0, 15 is VF. -/
abbrev Reg := BitVec 4

/-- A 4-bit row count, the field `n` (30_encoding.md R71). -/
abbrev Count := BitVec 4

/-- The flag register VF (10_state.md R22). -/
abbrev Reg.flag : Reg := 0xF#4

end Sys2Proof
end

