-- ==== Sys2Proof/Config.lean ====
section
/-! DEFINITION. The fixed parameters of 00_scope.md R5 and the free values of R6.
The draws have no body: nothing can evaluate them, so a statement about one holds for every value.
The parameters a machine is built with (FONT, TICK_WHILE_WAITING) and their defaults stand in
Machine/Parameters.lean, where a later repair may mend the defaults; CADENCE is read by no rule (70_reset_and_hazards.md R245). -/

namespace Sys2Proof

/-- MEM_SIZE, bytes of memory (00_scope.md R5). -/
abbrev Config.memSize : Nat := 4096

/-- PROG_BASE, the load address and the reset value of the pc (00_scope.md R5). -/
abbrev Config.progBase : Nat := 0x200

/-- PROG_MAX, the largest image in bytes (00_scope.md R5). -/
abbrev Config.progMax : Nat := 3584

/-- STACK_DEPTH, the number of return addresses (00_scope.md R5, 10_state.md R26). -/
abbrev Config.stackDepth : Nat := 16

/-- RNG: the byte of the n-th draw, "an unconstrained draw" (00_scope.md R6, 45_family9_to_C.md R153).
A FREE VALUE (log entry 2): no body. -/
opaque Config.randomByte : Nat → Byte

/-- KEY_CHOICE: the n-th draw's choice, a number the machine reduces to a place in the list of the
pressed keys (00_scope.md R6, 48_familyF.md R181). A FREE VALUE (log entry 3): no body. -/
opaque Config.keyChoice : Nat → Nat

end Sys2Proof
end

