-- ==== Sys2Proof/Machine/Parameters.lean ====
section
/-! DEFINITION. The open parameters of 00_scope.md R6 that a model takes as arguments, FONT and
TICK_WHILE_WAITING, and their defaults. RNG and KEY_CHOICE are the free values of Config.lean. -/

namespace Sys2Proof.Machine

/-- FONT at its default (10_state.md R36): glyph d is bytes 5d to 5d+4, top row first, bit 7 leftmost.
PRESUMED by the spec from general knowledge (log entry 5). -/
def font : List Byte :=
  [0xF0, 0x90, 0x90, 0x90, 0xF0,  0x20, 0x60, 0x20, 0x20, 0x70,
   0xF0, 0x10, 0xF0, 0x80, 0xF0,  0xF0, 0x10, 0xF0, 0x10, 0xF0]
  ++ [0x90, 0x90, 0xF0, 0x10, 0x10,  0xF0, 0x80, 0xF0, 0x10, 0xF0,
   0xF0, 0x80, 0xF0, 0x90, 0xF0,  0xF0, 0x10, 0x20, 0x40, 0x40]
  ++ [0xF0, 0x90, 0xF0, 0x90, 0xF0,  0xF0, 0x90, 0xF0, 0x10, 0xF0,
   0xF0, 0x90, 0xF0, 0x90, 0x90,  0xE0, 0x90, 0xE0, 0x90, 0xE0]
  ++ [0xF0, 0x80, 0x80, 0x80, 0xF0,  0xE0, 0x90, 0x90, 0x90, 0xE0,
   0xF0, 0x80, 0xF0, 0x80, 0xF0,  0xF0, 0x80, 0xF0, 0x80, 0x80]

/-- TICK_WHILE_WAITING at its default: a waiting step ticks no timer (40_step_cycle.md R97,
90_conflicts.md C2; log entry 4). -/
def tickWhileWaiting : Bool := false

/-- The arguments a machine is built with (00_scope.md R6). -/
structure Parameters where
  /-- FONT, the 80 bytes construction writes at 0x000 to 0x04F (10_state.md R36). -/
  font : Vector Byte 80
  /-- TICK_WHILE_WAITING (40_step_cycle.md R97). -/
  tickWhileWaiting : Bool
  deriving DecidableEq, Repr

/-- Every parameter at its default: what `State.reset` and `step` stand for (log entries 4 and 5). -/
def Parameters.defaults : Parameters where
  font := ⟨Sys2Proof.Machine.font.toArray, rfl⟩
  tickWhileWaiting := Sys2Proof.Machine.tickWhileWaiting

end Sys2Proof.Machine
end

