-- ==== Sys2Proof/Machine/State.lean ====
section
/-! DEFINITION. The machine's state as plain data (10_state.md R20 to R38), the reasons a host
transaction or a dispatch can stop, and the state after construction (70_reset_and_hazards.md R230). -/

namespace Sys2Proof.Machine

/-- The resolution mode, "standard vs. extended" (10_state.md R31). -/
inductive Resolution where
  | standard
  | extended
  deriving DecidableEq, Repr

/-- A pixel plane of `w` columns and `h` rows, one bit a cell (10_state.md R32): row `r` is entry `r`,
and the cell of column `c` is bit `c` of it. The layout is the model's (log entry 9). -/
abbrev Plane (w h : Nat) := Vector (BitVec w) h

/-- Memory: the cells that differ from what construction leaves, in strictly rising order of address
(10_state.md R29; the canonical form is `Memory.wf` in Machine/Ops.lean, log entry 10). -/
abbrev Memory := List Host.Cell

/-- The kinds of fault of 60_exceptions.md R201, in the order of their codes. -/
inductive FaultKind where
  | fetchOutOfRange
  | memOutOfRange
  | stackOverflow
  | stackUnderflow
  | keyOutOfRange
  deriving DecidableEq, Repr

/-- The fault record `(kind, pc, op, addr)` of 10_state.md R37: `op` is absent for a fetch fault,
`addr` where the kind has none. -/
structure FaultRecord where
  kind : FaultKind
  pc : Word
  op : Option Word
  addr : Option Nat
  deriving DecidableEq, Repr

/-- An output event (60_exceptions.md R220). -/
inductive Event where
  /-- `UnknownOpcode(op)` of 40_step_cycle.md R99. -/
  | unknownOpcode (op : Word)
  /-- `Silence()` of 40_step_cycle.md R96. -/
  | silence
  deriving DecidableEq, Repr

structure State where
  /-- Program counter (10_state.md R20). -/
  pc : Word
  /-- General registers V0 to VF (10_state.md R21). -/
  vreg : Vector Byte 16
  /-- Index register I (10_state.md R23). -/
  ireg : Word
  /-- Delay timer DT (10_state.md R24). -/
  dt : Byte
  /-- Sound timer ST (10_state.md R25). -/
  st : Byte
  /-- Call-stack slots S[0] to S[15] (10_state.md R27). -/
  stack : Vector Word 16
  /-- Stack pointer: how many slots are occupied, 0 to 16 (10_state.md R28). -/
  sp : Fin 17
  /-- Memory (10_state.md R29). -/
  mem : Memory
  /-- Key levels K[0] to K[15], true when pressed (10_state.md R30). -/
  keys : Vector Bool 16
  /-- Resolution mode (10_state.md R31). -/
  mode : Resolution
  /-- Standard plane (10_state.md R32). -/
  pstd : Plane 64 32
  /-- Extended plane (10_state.md R32). -/
  pext : Plane 128 64
  /-- Draw-pending flag (10_state.md R34). -/
  drawPending : Bool
  /-- Running flag (10_state.md R35). -/
  running : Bool
  /-- Fault record (10_state.md R37). -/
  fault : Option FaultRecord
  /-- The output events emitted since construction, NEWEST FIRST: the model's own record of what the spec emits
  (log entry 1). -/
  events : List Event
  /-- How many free values have been drawn: the model's own counter, which a new Construct does not put
  back (log entry 2). -/
  draws : Nat
  deriving DecidableEq, Repr

/-- Why a host transaction ends the run. No step and no instruction raises one: an instruction's fault
is a NEXT state that holds its record (60_exceptions.md R207, log entry 6). -/
inductive Fault where
  /-- Raised by Load alone (Machine/Transactions.lean) for an image of `len` > 3584 bytes: "fatal to
  the run", no byte written (70_reset_and_hazards.md R234). SAFE: the spec itself ends the run. -/
  | imageTooLarge (len : Nat)
  deriving DecidableEq, Repr

/-- Why the model gives no meaning. No step and no instruction answers with one. -/
inductive Refusal where
  /-- An arm of `exec` whose instruction has no meaning yet; no arm uses it. SAFE: nothing can be
  proved of it. -/
  | notModelled (mnemonic : String)
  /-- Raised by Load alone (Machine/Transactions.lean) once the host has requested a Step: "a model
  gives it no transition" (70_reset_and_hazards.md R235, log entry 8). SAFE: nothing can be proved of
  what such a Load leaves. -/
  | loadAfterStep
  deriving DecidableEq, Repr

/-- The state after Construct with FONT at its default (70_reset_and_hazards.md R230). Memory lists
nothing: it reads as construction leaves it, FONT at 0x000 to 0x04F and 0 elsewhere. Construction with
any FONT is `State.construct` in Machine/Ops.lean (log entry 5). -/
def State.reset : State where
  pc := 0x200
  vreg := Vector.replicate 16 0
  ireg := 0
  dt := 0
  st := 0
  stack := Vector.replicate 16 0
  sp := 0
  mem := []
  keys := Vector.replicate 16 false
  mode := .standard
  pstd := Vector.replicate 32 0
  pext := Vector.replicate 64 0
  drawPending := false
  running := true
  fault := none
  events := []
  draws := 0

end Sys2Proof.Machine
end

