-- ==== Sys2Proof/Machine/Ops.lean ====
section
/-! DEFINITION. The named operations over memory, planes and registers, and TAKING A FAULT
(`State.raise`), the one shared operation of 60_exceptions.md R207. There is no return from a fault
(R212): "The only way out of a faulted or halted state is a new construction". -/

namespace Sys2Proof.Machine

/-- What executing an instruction answers. -/
abbrev Result := Host.Outcome State Fault Refusal

/-! ## Memory (20_memory.md) -/

/-- What an address that memory does not list reads as: the byte construction leaves there when FONT is
at its default (70_reset_and_hazards.md R230: FONT at 0x000 to 0x04F, else 0). A machine built with
another FONT lists the bytes that differ (`State.construct`). -/
def Memory.unlisted (a : Nat) : Byte := font.getD a 0

/-- The first listed byte at an address. -/
def Memory.lookup : Memory → Nat → Option Byte
  | [], _ => none
  | (b, v) :: rest, a => if b = a then some v else Memory.lookup rest a

/-- The byte at an address: `M[addr]` of 20_memory.md R52. The range check is made before any access,
once for the whole range (R60, `outOfRange` in Machine/Operands.lean; fetch has its own, R91). -/
def Memory.read (m : Memory) (a : Nat) : Byte := (Memory.lookup m a).getD (Memory.unlisted a)

/-- The list with the byte put in at its place. -/
def Memory.insert : Memory → Nat → Byte → Memory
  | [], a, v => [(a, v)]
  | (b, w) :: rest, a, v =>
    if a < b then (a, v) :: (b, w) :: rest
    else if a = b then (a, v) :: rest
    else (b, w) :: Memory.insert rest a v

/-- The list without an address. -/
def Memory.erase (m : Memory) (a : Nat) : Memory := m.filter fun c => c.1 != a

/-- `M[addr] <- v` of 20_memory.md R53, keeping the canonical form. An address above 0xFFF has no byte
and is left alone; every store checks its range first (R60). -/
def Memory.write (m : Memory) (a : Nat) (v : Byte) : Memory :=
  if a < Config.memSize then
    if v = Memory.unlisted a then Memory.erase m a else Memory.insert m a v
  else m

/-- Bytes written at rising addresses. -/
def Memory.writeBytes (m : Memory) (a : Nat) : List Byte → Memory
  | [] => m
  | v :: rest => Memory.writeBytes (Memory.write m a v) (a + 1) rest

/-- `n` bytes read at rising addresses. -/
def Memory.readBytes (m : Memory) (a : Nat) : Nat → List Byte
  | 0 => []
  | n + 1 => Memory.read m a :: Memory.readBytes m (a + 1) n

/-- The cells from some address on: rising, inside memory, none equal to the unlisted byte. -/
def Memory.wfFrom (low : Nat) : Memory → Bool
  | [] => true
  | (a, v) :: rest =>
    decide (low ≤ a) && decide (a < Config.memSize) && v != Memory.unlisted a
      && Memory.wfFrom (a + 1) rest

/-- The canonical form: strictly rising addresses of the 4096-byte space, no entry equal to what an
unlisted address reads as. Equal memories are equal lists. -/
def Memory.wf (m : Memory) : Bool := Memory.wfFrom 0 m

/-! ## Construction (70_reset_and_hazards.md R230) -/

/-- The state after Construct with the given FONT at 0x000 to 0x04F (10_state.md R36); with the default
FONT it is `State.reset`. Nothing but those 80 bytes depends on FONT. -/
def State.construct (fontBytes : Vector Byte 80) : State :=
  { State.reset with mem := Memory.writeBytes [] 0 fontBytes.toList }

/-- Construct once more, in a machine that has run: all state as `State.construct` leaves it, but the
model's own draw counter goes on, so that no byte and no key choice of an earlier run comes again. The
spec leaves open how the draws after a new Construct relate to those before it (45_family9_to_C.md R153,
"every execution takes a new draw"); that they are further free values is the model's choice (log entry
2). The model's own event record starts anew (log entry 1). -/
def State.reconstruct (s : State) (fontBytes : Vector Byte 80) : State :=
  { State.construct fontBytes with draws := s.draws }

/-! ## Planes (10_state.md R32) -/

/-- The cell of column `c` and row `r`, `P[c][r]`; off outside the plane. -/
def Plane.cell {w h : Nat} (p : Plane w h) (c r : Nat) : Bool := (p.getD r 0).getLsbD c

/-- The plane with one cell complemented: `P[c][r] <- P[c][r] XOR 1`. -/
def Plane.toggle {w h : Nat} (p : Plane w h) (c r : Nat) : Plane w h :=
  p.setIfInBounds r (p.getD r 0 ^^^ BitVec.twoPow w c)

/-- A plane with every cell 0. -/
def Plane.clear (w h : Nat) : Plane w h := Vector.replicate h 0

/-! ## Registers, the pc and the other single fields -/

/-- `V[x]` (00_scope.md R9). -/
def State.getV (s : State) (x : Reg) : Byte := s.vreg[x.toNat]'x.isLt

/-- `V[x] <- v`. -/
def State.setV (s : State) (x : Reg) (v : Byte) : State :=
  { s with vreg := s.vreg.set x.toNat v x.isLt }

/-- `I <- v`. -/
def State.setI (s : State) (v : Word) : State := { s with ireg := v }

/-- `DT <- v`. -/
def State.setDt (s : State) (v : Byte) : State := { s with dt := v }

/-- `ST <- v`. -/
def State.setSt (s : State) (v : Byte) : State := { s with st := v }

/-- `mode <- m`. -/
def State.setMode (s : State) (m : Resolution) : State := { s with mode := m }

/-- The memory replaced. -/
def State.setMem (s : State) (m : Memory) : State := { s with mem := m }

/-- `running <- 0` (10_state.md R35). -/
def State.halt (s : State) : State := { s with running := false }

/-- `draw_pending <- 1` (10_state.md R34). -/
def State.markDrawn (s : State) : State := { s with drawPending := true }

/-- One free value has been taken (log entry 2). -/
def State.countDraw (s : State) : State := { s with draws := s.draws + 1 }

/-- `emit E` (00_scope.md R9): the event goes to the host; nothing else changes (log entry 1). -/
def State.emit (s : State) (e : Event) : State := { s with events := e :: s.events }

/-- The event stream in step order (60_exceptions.md R220). -/
def State.eventStream (s : State) : List Event := s.events.reverse

/-- `pc <- target`. -/
def State.jump (s : State) (target : Word) : State := { s with pc := target }

/-- `pc <- NEXT`, the fall-through `(pc + 2) mod 65536` (40_step_cycle.md R94). -/
def State.advance (s : State) : State := s.jump (s.pc + 2)

/-- `pc <- SKIP` when the condition holds, else `pc <- NEXT` (40_step_cycle.md R94). -/
def State.skipIf (s : State) (taken : Bool) : State := s.jump (if taken then s.pc + 4 else s.pc + 2)

/-! ## The call stack (10_state.md R26 to R28) -/

/-- Push the pc, when a slot is free: `S[sp] <- pc`, `sp <- sp + 1`. -/
def State.push? (s : State) : Option State :=
  if h : s.sp.val < 16 then
    some { s with stack := s.stack.set s.sp.val s.pc h, sp := ⟨s.sp.val + 1, by omega⟩ }
  else none

/-- Pop, when a slot is occupied: `sp <- sp - 1`, and the slot's value, which the slot keeps. -/
def State.pop? (s : State) : Option (Word × State) :=
  if h : s.sp.val = 0 then none
  else
    have := s.sp.isLt
    some (s.stack[s.sp.val - 1], { s with sp := ⟨s.sp.val - 1, by omega⟩ })

/-! ## Taking a fault (60_exceptions.md R207) -/

/-- `raise Fault(kind, info)`: the state is as before the step, but for the record, which holds the
kind, the address and word of the faulting instruction and the offending address or key index. -/
def State.raise (s : State) (kind : FaultKind) (op : Option Word) (addr : Option Nat) : State :=
  { s with fault := some ⟨kind, s.pc, op, addr⟩ }

/-- The code of a fault kind (60_exceptions.md R201). -/
def FaultKind.code : FaultKind → Nat
  | .fetchOutOfRange => 1
  | .memOutOfRange => 2
  | .stackOverflow => 3
  | .stackUnderflow => 4
  | .keyOutOfRange => 5

end Sys2Proof.Machine
end

