-- ==== Sys2Proof/Machine/Flags.lean ====
section
/-! DEFINITION. Every flag computation that goes to VF (10_state.md R22), and the write of VF. -/

namespace Sys2Proof.Machine

/-- A flag as the byte VF holds: 1 or 0. -/
def flagByte (b : Bool) : Byte := if b then 1 else 0

/-- `V[0xF] <- 1 if b else 0`. -/
def State.setFlag (s : State) (b : Bool) : State := s.setV Reg.flag (flagByte b)

/-- Carry of 8xy4: "1 if the unwrapped sum exceeds 255, else 0" (44_alu_8.md R144). -/
def carryFlag (a b : Byte) : Bool := decide (255 < a.toNat + b.toNat)

/-- No-borrow of `a - b`: "0 if b > a (borrow occurred), else 1" (44_alu_8.md R145, R147). -/
def noBorrowFlag (a b : Byte) : Bool := !decide (a.toNat < b.toNat)

/-- The bit 8xy6 shifts out, as a byte (44_alu_8.md R146). -/
def lowBit (a : Byte) : Byte := a &&& 0x01

/-- The bit 8xyE shifts out, as a byte (44_alu_8.md R148). -/
def highBit (a : Byte) : Byte := (a >>> 7) &&& 0x01

/-- The flag of Fx1E, from the stored 16-bit I: "1 if the new I exceeds 0xFFF, else 0"
(48_familyF.md R184). -/
def indexFlag (new : Word) : Bool := decide (0xFFF < new.toNat)

end Sys2Proof.Machine
end

