-- ==== Sys2Proof/Machine/Alu.lean ====
section
/-! DEFINITION. Family 8 (44_alu_8.md R140 to R148). Operands are read before the first write; the
result is written first and VF last, except in the two shifts, which write VF first and then shift
what the register holds (00_scope.md R10; log entry 12). -/

namespace Sys2Proof.Machine

/-- A result without a flag. -/
def State.putResult (s : State) (x : Reg) (v : Byte) : Result := .next (s.setV x v).advance

/-- A result, then its flag in VF. -/
def State.putResultFlag (s : State) (x : Reg) (v : Byte) (flag : Bool) : Result :=
  .next ((s.setV x v).setFlag flag).advance

/-- VF first, then the operation on what the register now holds. -/
def State.flagThenResult (s : State) (x : Reg) (flag : Byte) (f : Byte → Byte) : Result :=
  let flagged := s.setV Reg.flag flag
  .next (flagged.setV x (f (flagged.getV x))).advance

/-- 8xy0 LD Vx, Vy (R140). -/
def execLdReg (x y : Reg) (s : State) : Result := s.putResult x (s.getV y)

/-- 8xy1 OR Vx, Vy (R141). -/
def execOrReg (x y : Reg) (s : State) : Result := s.putResult x (s.getV x ||| s.getV y)

/-- 8xy2 AND Vx, Vy (R142). -/
def execAndReg (x y : Reg) (s : State) : Result := s.putResult x (s.getV x &&& s.getV y)

/-- 8xy3 XOR Vx, Vy (R143). -/
def execXorReg (x y : Reg) (s : State) : Result := s.putResult x (s.getV x ^^^ s.getV y)

/-- 8xy4 ADD Vx, Vy (R144). -/
def execAddReg (x y : Reg) (s : State) : Result :=
  s.putResultFlag x (s.getV x + s.getV y) (carryFlag (s.getV x) (s.getV y))

/-- 8xy5 SUB Vx, Vy (R145). -/
def execSubReg (x y : Reg) (s : State) : Result :=
  s.putResultFlag x (s.getV x - s.getV y) (noBorrowFlag (s.getV x) (s.getV y))

/-- 8xy6 SHR Vx, Vy (R146): Vy is not read. -/
def execShr (x _y : Reg) (s : State) : Result :=
  s.flagThenResult x (lowBit (s.getV x)) fun v => v >>> 1

/-- 8xy7 SUBN Vx, Vy (R147). -/
def execSubn (x y : Reg) (s : State) : Result :=
  s.putResultFlag x (s.getV y - s.getV x) (noBorrowFlag (s.getV y) (s.getV x))

/-- 8xyE SHL Vx, Vy (R148): Vy is not read. -/
def execShl (x _y : Reg) (s : State) : Result :=
  s.flagThenResult x (highBit (s.getV x)) fun v => v <<< 1

end Sys2Proof.Machine
end

