-- ==== Sys2Proof/WellFormed.lean ====
section
/-! DEFINITION. When an operand is in range (30_encoding.md R71, R73), when an instruction is
well-formed, and when a WORD is one of the listed patterns (R75, R76), read off the mask and match of
spec/opcode_table.json independently of the decoder.

The operand types already carry their ranges, so every term of `Instr` is well-formed
(`Laws.wellFormed_all` in Laws/Decode.lean); the checks are written out here all the same, on numbers,
so that what they refuse can be tested. The check that does refuse something is the one on words. -/

namespace Sys2Proof

/-- A register index is 0x0..0xF (10_state.md R21). -/
def regInRange (x : Nat) : Bool := decide (x < 16)

/-- An address field is 0x000..0xFFF (30_encoding.md R71). -/
def addrInRange (nnn : Nat) : Bool := decide (nnn < 4096)

/-- An immediate is 0..255 (30_encoding.md R71). -/
def immInRange (nn : Nat) : Bool := decide (nn < 256)

/-- A row count is 0..15 (30_encoding.md R71). -/
def countInRange (n : Nat) : Bool := decide (n < 16)

/-- Every operand of the instruction lies in its field's range. -/
def Instr.wellFormed : Instr → Bool
  | .cls | .ret | .exit | .low | .high => true
  | .jp nnn | .call nnn | .ldI nnn | .jpV0 nnn => addrInRange nnn.toNat
  | .seImm x nn | .sneImm x nn | .ldImm x nn | .addImm x nn | .rnd x nn =>
    regInRange x.toNat && immInRange nn.toNat
  | .seReg x y | .ldReg x y | .orReg x y | .andReg x y | .xorReg x y | .addReg x y | .subReg x y
  | .shr x y | .subn x y | .shl x y | .sneReg x y => regInRange x.toNat && regInRange y.toNat
  | .drw x y n => regInRange x.toNat && regInRange y.toNat && countInRange n.toNat
  | .skp x | .sknp x | .ldVxDt x | .ldVxK x | .ldDtVx x | .ldStVx x | .addI x | .ldF x | .ldHf x
  | .ldB x | .storeRegs x | .loadRegs x => regInRange x.toNat

/-- One row of spec/opcode_table.json: the mask of the fixed bits and their values. -/
structure OpcodeRow where
  mask : Word
  value : Word
  deriving DecidableEq, Repr

/-- The word has every fixed bit of the row (30_encoding.md R75). -/
def OpcodeRow.covers (row : OpcodeRow) (op : Word) : Bool := op &&& row.mask == row.value

def opcodeRowsO : List OpcodeRow :=
  [⟨0xFFFF, 0x00E0⟩, ⟨0xFFFF, 0x00EE⟩, ⟨0xFFFF, 0x00FD⟩, ⟨0xFFFF, 0x00FE⟩, ⟨0xFFFF, 0x00FF⟩]

def opcodeRows1to7 : List OpcodeRow :=
  [⟨0xF000, 0x1000⟩, ⟨0xF000, 0x2000⟩, ⟨0xF000, 0x3000⟩, ⟨0xF000, 0x4000⟩, ⟨0xF00F, 0x5000⟩,
   ⟨0xF000, 0x6000⟩, ⟨0xF000, 0x7000⟩]

def opcodeRows8 : List OpcodeRow :=
  [⟨0xF00F, 0x8000⟩, ⟨0xF00F, 0x8001⟩, ⟨0xF00F, 0x8002⟩, ⟨0xF00F, 0x8003⟩, ⟨0xF00F, 0x8004⟩,
   ⟨0xF00F, 0x8005⟩, ⟨0xF00F, 0x8006⟩, ⟨0xF00F, 0x8007⟩, ⟨0xF00F, 0x800E⟩]

def opcodeRows9toD : List OpcodeRow :=
  [⟨0xF00F, 0x9000⟩, ⟨0xF000, 0xA000⟩, ⟨0xF000, 0xB000⟩, ⟨0xF000, 0xC000⟩, ⟨0xF000, 0xD000⟩]

def opcodeRowsE : List OpcodeRow := [⟨0xF0FF, 0xE09E⟩, ⟨0xF0FF, 0xE0A1⟩]

def opcodeRowsF : List OpcodeRow :=
  [⟨0xF0FF, 0xF007⟩, ⟨0xF0FF, 0xF00A⟩, ⟨0xF0FF, 0xF015⟩, ⟨0xF0FF, 0xF018⟩, ⟨0xF0FF, 0xF01E⟩,
   ⟨0xF0FF, 0xF029⟩, ⟨0xF0FF, 0xF030⟩, ⟨0xF0FF, 0xF033⟩, ⟨0xF0FF, 0xF055⟩, ⟨0xF0FF, 0xF065⟩]

/-- The 38 rows of spec/opcode_table.json, in its order. -/
def opcodeTable : List OpcodeRow :=
  opcodeRowsO ++ opcodeRows1to7 ++ opcodeRows8 ++ opcodeRows9toD ++ opcodeRowsE ++ opcodeRowsF

/-- The word is an instruction: the fixed bits of some row all match (30_encoding.md R75). -/
def wordWellFormed (op : Word) : Bool := opcodeTable.any (·.covers op)

/-- The instruction's own row of the table. -/
def Instr.row : Instr → OpcodeRow
  | .cls => ⟨0xFFFF, 0x00E0⟩
  | .ret => ⟨0xFFFF, 0x00EE⟩
  | .exit => ⟨0xFFFF, 0x00FD⟩
  | .low => ⟨0xFFFF, 0x00FE⟩
  | .high => ⟨0xFFFF, 0x00FF⟩
  | .jp _ => ⟨0xF000, 0x1000⟩
  | .call _ => ⟨0xF000, 0x2000⟩
  | .seImm _ _ => ⟨0xF000, 0x3000⟩
  | .sneImm _ _ => ⟨0xF000, 0x4000⟩
  | .seReg _ _ => ⟨0xF00F, 0x5000⟩
  | .ldImm _ _ => ⟨0xF000, 0x6000⟩
  | .addImm _ _ => ⟨0xF000, 0x7000⟩
  | .ldReg _ _ => ⟨0xF00F, 0x8000⟩
  | .orReg _ _ => ⟨0xF00F, 0x8001⟩
  | .andReg _ _ => ⟨0xF00F, 0x8002⟩
  | .xorReg _ _ => ⟨0xF00F, 0x8003⟩
  | .addReg _ _ => ⟨0xF00F, 0x8004⟩
  | .subReg _ _ => ⟨0xF00F, 0x8005⟩
  | .shr _ _ => ⟨0xF00F, 0x8006⟩
  | .subn _ _ => ⟨0xF00F, 0x8007⟩
  | .shl _ _ => ⟨0xF00F, 0x800E⟩
  | .sneReg _ _ => ⟨0xF00F, 0x9000⟩
  | .ldI _ => ⟨0xF000, 0xA000⟩
  | .jpV0 _ => ⟨0xF000, 0xB000⟩
  | .rnd _ _ => ⟨0xF000, 0xC000⟩
  | .drw _ _ _ => ⟨0xF000, 0xD000⟩
  | .skp _ => ⟨0xF0FF, 0xE09E⟩
  | .sknp _ => ⟨0xF0FF, 0xE0A1⟩
  | .ldVxDt _ => ⟨0xF0FF, 0xF007⟩
  | .ldVxK _ => ⟨0xF0FF, 0xF00A⟩
  | .ldDtVx _ => ⟨0xF0FF, 0xF015⟩
  | .ldStVx _ => ⟨0xF0FF, 0xF018⟩
  | .addI _ => ⟨0xF0FF, 0xF01E⟩
  | .ldF _ => ⟨0xF0FF, 0xF029⟩
  | .ldHf _ => ⟨0xF0FF, 0xF030⟩
  | .ldB _ => ⟨0xF0FF, 0xF033⟩
  | .storeRegs _ => ⟨0xF0FF, 0xF055⟩
  | .loadRegs _ => ⟨0xF0FF, 0xF065⟩

end Sys2Proof
end

