-- ==== Sys2Proof/Machine/Operands.lean ====
section
/-! DEFINITION. The operand forms (30_encoding.md R73): the jump targets, the glyph addresses, the
memory block at I with its range check, the decimal digits, the named key, and the keys pressed. -/

namespace Sys2Proof.Machine

/-- `nnn` zero-extended to 16 bits (30_encoding.md R73). -/
def addrWord (nnn : Addr) : Word := nnn.setWidth 16

/-- The target of Bnnn, `(nnn + V[0]) mod 65536` (45_family9_to_C.md R152). -/
def indexedTarget (nnn : Addr) (v0 : Byte) : Word := addrWord nnn + v0.setWidth 16

/-- A glyph's address, `V[x] * size`, exact (48_familyF.md R185 with 5, R186 with 10). -/
def glyphAddress (size : Nat) (vx : Byte) : Word := BitVec.ofNat 16 (vx.toNat * size)

/-- The lowest address above 0xFFF that an access of `len` bytes at I would touch, when it touches
one: `max(I, 0x1000)` (20_memory.md R60). Addresses are unbounded integers (R51). -/
def outOfRange (ireg : Word) (len : Nat) : Option Nat :=
  if 0 < len ∧ 0xFFF < ireg.toNat + len - 1 then some (max ireg.toNat 0x1000) else none

/-- An instruction that touches `len` bytes at I: MEM_OUT_OF_RANGE when one lies above 0xFFF, with
nothing done, else the state it leaves (20_memory.md R60, 60_exceptions.md R203). -/
def State.withBlock (s : State) (i : Instr) (len : Nat) (done : State) : Result :=
  match outOfRange s.ireg len with
  | some a => .next (s.raise .memOutOfRange (some (encode i)) (some a))
  | none => .next done

/-- The hundreds, tens and units of a byte (48_familyF.md R187). -/
def decimalDigits (v : Byte) : List Byte :=
  [BitVec.ofNat 8 (v.toNat / 100), BitVec.ofNat 8 (v.toNat / 10 % 10), BitVec.ofNat 8 (v.toNat % 10)]

/-- `MemWrite(a + j, 1, V[j])` for j = 0 up to k - 1, ascending (48_familyF.md R188). -/
def storeBlock (v : Vector Byte 16) (m : Memory) (a : Nat) : Nat → Memory
  | 0 => m
  | k + 1 => Memory.write (storeBlock v m a k) (a + k) (v.getD k 0)

/-- `V[j] <- MemRead(a + j, 1)` for j = 0 up to k - 1, ascending (48_familyF.md R189). -/
def loadBlock (v : Vector Byte 16) (m : Memory) (a : Nat) : Nat → Vector Byte 16
  | 0 => v
  | k + 1 => (loadBlock v m a k).setIfInBounds k (Memory.read m (a + k))

/-- The level of the key a byte names, when there is such a key (47_keys_E.md R170). -/
def State.keyLevel (s : State) (k : Byte) : Option Bool := s.keys[k.toNat]?

/-- The indices of the pressed keys, lowest first: `{ k in 0..15 | K[k] = 1 }` (48_familyF.md R181). -/
def State.pressedKeys (s : State) : List Nat := (List.range 16).filter fun k => s.keys.getD k false

/-- `draw KEY_CHOICE(pressed)`: some member of a list of pressed keys; with one key pressed there is
no choice to draw (00_scope.md R6; log entry 3). -/
def chooseKey (draw : Nat) (pressed : List Nat) : Nat :=
  match pressed with
  | [] => 0
  | [k] => k
  | _ :: _ :: _ => pressed.getD (Config.keyChoice draw % pressed.length) 0

end Sys2Proof.Machine
end

