-- ==== Sys2Proof/Machine/Keys.lean ====
section
/-! DEFINITION. The instructions that read the key state: family E (47_keys_E.md R170, R171) and the
key wait Fx0A (48_familyF.md R181). -/

namespace Sys2Proof.Machine

/-- Skip when the named key's level is `wanted`; KEY_OUT_OF_RANGE when the byte names no key
(60_exceptions.md R206). -/
def State.skipOnKey (s : State) (i : Instr) (k : Byte) (wanted : Bool) : Result :=
  match s.keyLevel k with
  | none => .next (s.raise .keyOutOfRange (some (encode i)) (some k.toNat))
  | some level => .next (s.skipIf (level == wanted))

/-- Ex9E SKP Vx (R170). -/
def execSkp (x : Reg) (s : State) : Result := s.skipOnKey (.skp x) (s.getV x) true

/-- ExA1 SKNP Vx (R171). -/
def execSknp (x : Reg) (s : State) : Result := s.skipOnKey (.sknp x) (s.getV x) false

/-- Fx0A LD Vx, K (R181): with no key pressed the outcome is `wait` and nothing is written; else the
index of a drawn pressed key is stored (log entry 3). -/
def execLdVxK (x : Reg) (s : State) : Result :=
  if s.pressedKeys = [] then .next s
  else .next (s.countDraw.setV x (BitVec.ofNat 8 (chooseKey s.draws s.pressedKeys))).advance

end Sys2Proof.Machine
end

