-- ==== Sys2Proof/Machine/System.lean ====
section
/-! DEFINITION. Family 0 (41_family0_system.md R110 to R114), and the UNKNOWN word, which is no
instruction but is executed (40_step_cycle.md R99). -/

namespace Sys2Proof.Machine

/-- The active plane with every cell 0; the inactive plane keeps its cells (10_state.md R33). -/
def State.clearActive (s : State) : State :=
  match s.mode with
  | .standard => { s with pstd := Plane.clear 64 32 }
  | .extended => { s with pext := Plane.clear 128 64 }

/-- 00E0 CLS (R110). -/
def execCls (s : State) : Result := .next s.clearActive.markDrawn.advance

/-- 00EE RET (R111): the popped slot holds the address of the CALL, so the return adds 2. -/
def execRet (s : State) : Result :=
  match s.pop? with
  | none => .next (s.raise .stackUnderflow (some (encode .ret)) none)
  | some (callSite, popped) => .next (popped.jump (callSite + 2))

/-- 00FD EXIT (R112). -/
def execExit (s : State) : Result := .next s.halt.advance

/-- 00FE LOW (R113). -/
def execLow (s : State) : Result := .next (s.setMode .standard).advance

/-- 00FF HIGH (R114). -/
def execHigh (s : State) : Result := .next (s.setMode .extended).advance

/-- An UNKNOWN word: reported and skipped; the outcome is `done` (40_step_cycle.md R99). -/
def execUnknown (op : Word) (s : State) : State := (s.emit (.unknownOpcode op)).advance

end Sys2Proof.Machine
end

