-- ==== Sys2Proof/Machine/Cycle.lean ====
section
/-! DEFINITION. The parts of the step cycle around `exec` (40_step_cycle.md R90 to R101): the step
enable, the fetch, the timer tick, the three endings of an instruction and what each commits. -/

namespace Sys2Proof.Machine

/-- A step takes effect only when `running` = 1 and `fault` = none (R90). -/
def State.enabled (s : State) : Bool := s.running && s.fault.isNone

/-- `Fetch(pc)` (R91): none when the second byte would lie past memory. -/
def State.fetch (s : State) : Option Word :=
  if 0xFFE < s.pc.toNat then none
  else some (wordOfBytes (Memory.read s.mem s.pc.toNat) (Memory.read s.mem (s.pc.toNat + 1)))

/-- The fault of a fetch past memory: `op` is none and the pc is recorded twice (60_exceptions.md
R202). -/
def State.fetchFault (s : State) : State := s.raise .fetchOutOfRange none (some s.pc.toNat)

/-- The delay-timer tick (R95). -/
def State.tickDelay (s : State) : State := if 0 < s.dt.toNat then s.setDt (s.dt - 1) else s

/-- The sound-timer tick and the silence cue, emitted on every tick that leaves ST = 0 (R96,
90_conflicts.md C8). -/
def State.tickSound (s : State) : State :=
  let t := if 0 < s.st.toNat then s.setSt (s.st - 1) else s
  if t.st = 0 then t.emit .silence else t

/-- `Tick()` (R101). -/
def State.tick (s : State) : State := s.tickDelay.tickSound

/-- The three outcomes of an instruction (R93). -/
inductive Ending where
  | done
  | wait
  | faulted
  deriving DecidableEq, Repr

/-- The instruction is Fx0A and no key is pressed (R93, 48_familyF.md R181). -/
def waitsForKey (i : Instr) (s : State) : Bool :=
  match i with
  | .ldVxK _ => s.pressedKeys.isEmpty
  | _ => false

/-- How the instruction ended, from the state before it and the state it left (log entry 14). -/
def ending (i : Instr) (before after : State) : Ending :=
  if after.fault.isSome then .faulted
  else if waitsForKey i before then .wait
  else .done

/-- What an ending commits (R97, R98, R101); `tww` is the parameter TICK_WHILE_WAITING. -/
def State.commit (tww : Bool) (e : Ending) (before after : State) : State :=
  match e with
  | .done => after.tick
  | .wait => if tww then before.tick else before
  | .faulted => after

/-- The step's answer from the answer of the instruction it ran. -/
def finishStep (tww : Bool) (i : Instr) (before : State) : Result → Result
  | .next after => .next (State.commit tww (ending i before after) before after)
  | .fault r => .fault r
  | .refused r => .refused r

/-- The memory with an instruction's two bytes stored where the next fetch reads (20_memory.md R57). -/
def State.placeWord (s : State) (op : Word) : State :=
  s.setMem (Memory.writeBytes s.mem s.pc.toNat (wordBytes op))

end Sys2Proof.Machine
end

