-- ==== Sys2Proof/Machine/Draw.lean ====
section
/-! DEFINITION. Dxyn, the sprite draw (46_draw_D.md R160 to R165), in the order of R160's loops. -/

namespace Sys2Proof.Machine

/-- A plane being drawn on, and whether some cell has gone from 1 to 0 so far (R162). -/
structure Canvas (w h : Nat) where
  plane : Plane w h
  collided : Bool
  deriving DecidableEq, Repr

/-- One sprite pixel at unwrapped coordinates: a 0 bit leaves the cell, a 1 bit toggles the cell at
the wrapped coordinates (R161) and notes a 1 that goes to 0 (R162). -/
def Canvas.pixel {w h : Nat} (d : Canvas w h) (c r : Nat) (bit : Bool) : Canvas w h :=
  if bit then
    ⟨d.plane.toggle (c % w) (r % h), d.collided || d.plane.cell (c % w) (r % h)⟩
  else d

/-- The first `k` pixels of a row, from bit 7, the leftmost (R163). -/
def Canvas.rowPixels {w h : Nat} (d : Canvas w h) (x y : Nat) (row : Byte) : Nat → Canvas w h
  | 0 => d
  | k + 1 => (d.rowPixels x y row k).pixel (x + k) y (row.getLsbD (7 - k))

/-- The rows of a sprite, top first. -/
def Canvas.rows {w h : Nat} (d : Canvas w h) (x y : Nat) : List Byte → Canvas w h
  | [] => d
  | row :: rest => Canvas.rows (d.rowPixels x y row 8) x (y + 1) rest

/-- The sprite drawn on the active plane; VF takes the collision last (R160, R162). -/
def State.drawSprite (s : State) (x y : Nat) (sprite : List Byte) : State :=
  match s.mode with
  | .standard =>
    let d := Canvas.rows ⟨s.pstd, false⟩ x y sprite
    { s with pstd := d.plane }.setFlag d.collided
  | .extended =>
    let d := Canvas.rows ⟨s.pext, false⟩ x y sprite
    { s with pext := d.plane }.setFlag d.collided

/-- Dxyn DRW Vx, Vy, n (R160). -/
def execDrw (x y : Reg) (n : Count) (s : State) : Result :=
  s.withBlock (.drw x y n) n.toNat
    (s.drawSprite (s.getV x).toNat (s.getV y).toNat
      (Memory.readBytes s.mem s.ireg.toNat n.toNat)).markDrawn.advance

end Sys2Proof.Machine
end

