-- ==== Sys2Proof/Machine/Flow.lean ====
section
/-! DEFINITION. Jumps, the call and the register skips: families 1 to 5 (42_flow_1_to_5.md R120 to
R124), 9xy0 and Bnnn (45_family9_to_C.md R150, R152). -/

namespace Sys2Proof.Machine

/-- 1nnn JP nnn (R120). -/
def execJp (nnn : Addr) (s : State) : Result := .next (s.jump (addrWord nnn))

/-- 2nnn CALL nnn (R121): pushes its own address. -/
def execCall (nnn : Addr) (s : State) : Result :=
  match s.push? with
  | none => .next (s.raise .stackOverflow (some (encode (.call nnn))) none)
  | some pushed => .next (pushed.jump (addrWord nnn))

/-- 3xnn SE Vx, nn (R122). -/
def execSeImm (x : Reg) (nn : Byte) (s : State) : Result := .next (s.skipIf (s.getV x == nn))

/-- 4xnn SNE Vx, nn (R123). -/
def execSneImm (x : Reg) (nn : Byte) (s : State) : Result := .next (s.skipIf (s.getV x != nn))

/-- 5xy0 SE Vx, Vy (R124). -/
def execSeReg (x y : Reg) (s : State) : Result := .next (s.skipIf (s.getV x == s.getV y))

/-- 9xy0 SNE Vx, Vy (R150). -/
def execSneReg (x y : Reg) (s : State) : Result := .next (s.skipIf (s.getV x != s.getV y))

/-- Bnnn JP V0, nnn (R152): always V0, and the sum keeps 16 bits. -/
def execJpV0 (nnn : Addr) (s : State) : Result := .next (s.jump (indexedTarget nnn (s.getV 0)))

end Sys2Proof.Machine
end

