-- ==== Sys2Proof/Machine/Immediate.lean ====
section
/-! DEFINITION. Immediate loads and additions, the index load and the random byte: families 6 and 7
(43_immediate_6_7.md R130, R131), Annn and Cxnn (45_family9_to_C.md R151, R153). -/

namespace Sys2Proof.Machine

/-- 6xnn LD Vx, nn (R130). -/
def execLdImm (x : Reg) (nn : Byte) (s : State) : Result := .next (s.setV x nn).advance

/-- 7xnn ADD Vx, nn (R131): wraps, writes no flag. -/
def execAddImm (x : Reg) (nn : Byte) (s : State) : Result := .next (s.setV x (s.getV x + nn)).advance

/-- Annn LD I, nnn (R151). -/
def execLdI (nnn : Addr) (s : State) : Result := .next (s.setI (addrWord nnn)).advance

/-- Cxnn RND Vx, nn (R153): a fresh byte of the free source RNG, masked (log entry 2). -/
def execRnd (x : Reg) (nn : Byte) (s : State) : Result :=
  .next (s.countDraw.setV x (Config.randomByte s.draws &&& nn)).advance

end Sys2Proof.Machine
end

