-- ==== Sys2Proof/Machine/Index.lean ====
section
/-! DEFINITION. Family F but for the key wait: timers, index arithmetic, glyph addresses, BCD and the
block transfers (48_familyF.md R180, R182 to R189). -/

namespace Sys2Proof.Machine

/-- Fx07 LD Vx, DT (R180): DT before this step's tick. -/
def execLdVxDt (x : Reg) (s : State) : Result := .next (s.setV x s.dt).advance

/-- Fx15 LD DT, Vx (R182). -/
def execLdDtVx (x : Reg) (s : State) : Result := .next (s.setDt (s.getV x)).advance

/-- Fx18 LD ST, Vx (R183). -/
def execLdStVx (x : Reg) (s : State) : Result := .next (s.setSt (s.getV x)).advance

/-- Fx1E ADD I, Vx (R184): the flag comes from the stored 16-bit I. -/
def execAddI (x : Reg) (s : State) : Result :=
  let new := s.ireg + (s.getV x).setWidth 16
  .next ((s.setI new).setFlag (indexFlag new)).advance

/-- Fx29 LD F, Vx (R185). -/
def execLdF (x : Reg) (s : State) : Result := .next (s.setI (glyphAddress 5 (s.getV x))).advance

/-- Fx30 LD HF, Vx (R186). -/
def execLdHf (x : Reg) (s : State) : Result := .next (s.setI (glyphAddress 10 (s.getV x))).advance

/-- Fx33 LD B, Vx (R187). -/
def execLdB (x : Reg) (s : State) : Result :=
  s.withBlock (.ldB x) 3
    (s.setMem (Memory.writeBytes s.mem s.ireg.toNat (decimalDigits (s.getV x)))).advance

/-- Fx55 LD [I], Vx (R188): I is unchanged. -/
def execStoreRegs (x : Reg) (s : State) : Result :=
  s.withBlock (.storeRegs x) (x.toNat + 1)
    (s.setMem (storeBlock s.vreg s.mem s.ireg.toNat (x.toNat + 1))).advance

/-- Fx65 LD Vx, [I] (R189): I is unchanged. -/
def execLoadRegs (x : Reg) (s : State) : Result :=
  s.withBlock (.loadRegs x) (x.toNat + 1)
    { s with vreg := loadBlock s.vreg s.mem s.ireg.toNat (x.toNat + 1) }.advance

end Sys2Proof.Machine
end

