-- ==== Sys2Proof/Machine/Step.lean ====
section
/-! DEFINITION. One step (40_step_cycle.md R101), and the placing of an instruction where the step
fetches. -/

namespace Sys2Proof.Machine

/-- One Step request, for either value of the parameter TICK_WHILE_WAITING (00_scope.md R6). A request
in a halted or faulted state changes nothing (R90). -/
def stepWith (tww : Bool) (s : State) : Host.Outcome State Fault Refusal :=
  if s.enabled then
    match s.fetch with
    | none => .next s.fetchFault
    | some op =>
      match decodeWord op with
      | .error _ => .next (execUnknown op s).tick
      | .ok i => finishStep tww i s (exec i s)
  else .next s

/-- One Step request, with TICK_WHILE_WAITING at its default (log entry 4). -/
def step (s : State) : Host.Outcome State Fault Refusal := stepWith tickWhileWaiting s

/-- `s` with the instruction of bits `w` (numbered as spec/opcode_table.json numbers them, bits at or
above `nbits` zero) stored at the pc, where the next step fetches. The machine simply fetches at its
pc, so nothing else changes (log entry 7). -/
def State.withFetchWord (s : State) (nbits w : Nat) : State :=
  s.placeWord (BitVec.ofNat 16 (w % 2 ^ nbits))

end Sys2Proof.Machine
end

