-- ==== Sys2Proof/Machine/Transactions.lean ====
section
/-! DEFINITION. The host's side of CORE: the transactions of 60_exceptions.md R216, one at a time and
never during a step, and what the host can observe (R220). -/

namespace Sys2Proof.Machine

/-- `SetKey(k, b)`: `K[k] <- b`, in any state (60_exceptions.md R217). -/
def State.setKey (s : State) (k : Fin 16) (b : Bool) : State :=
  { s with keys := s.keys.set k.val b k.isLt }

/-- `Quit()`: `running <- 0` (60_exceptions.md R218). -/
def State.quit (s : State) : State := s.halt

/-- `AckFrame()`: `draw_pending <- 0` (60_exceptions.md R219). -/
def State.ackFrame (s : State) : State := { s with drawPending := false }

/-- The copy of an image to 0x200, verbatim; no other state changes (70_reset_and_hazards.md R233). -/
def State.loadImage (s : State) (img : List Byte) : State :=
  s.setMem (Memory.writeBytes s.mem Config.progBase img)

/-- A host transaction (60_exceptions.md R216). -/
inductive Transaction where
  | construct
  | load (img : List Byte)
  | step
  | setKey (k : Fin 16) (level : Bool)
  | quit
  | ackFrame
  | observe
  deriving DecidableEq, Repr

/-- CORE together with the one fact of the host's protocol that a transaction depends on: whether a
Step has been requested since Construct (70_reset_and_hazards.md R235). -/
structure Session where
  core : State
  stepped : Bool
  deriving DecidableEq, Repr

/-- What the first Construct leaves (70_reset_and_hazards.md R230), by the parameters. A later one is
`State.reconstruct` (log entry 2). -/
def Session.construct (p : Parameters) : Session := ⟨State.construct p.font, false⟩

/-- One transaction with a machine of the given parameters (00_scope.md R6). Load fails with
ImageTooLarge above 3584 bytes (70_reset_and_hazards.md R234) and has no transition once a Step has been
requested (R235); the others always act (60_exceptions.md R216, 40_step_cycle.md R90). -/
def Session.transact (p : Parameters) (c : Session) : Transaction → Host.Outcome Session Fault Refusal
  | .construct => .next ⟨c.core.reconstruct p.font, false⟩
  | .load img =>
    if c.stepped then .refused .loadAfterStep
    else if Config.progMax < img.length then .fault (.imageTooLarge img.length)
    else .next { c with core := c.core.loadImage img }
  | .step =>
    match stepWith p.tickWhileWaiting c.core with
    | .next t => .next ⟨t, true⟩
    | .fault r => .fault r
    | .refused r => .refused r
  | .setKey k level => .next { c with core := c.core.setKey k level }
  | .quit => .next { c with core := c.core.quit }
  | .ackFrame => .next { c with core := c.core.ackFrame }
  | .observe => .next c

/-- The cells of a plane as the renderer reads them: rows top first, cells left to right
(10_state.md R32). -/
def Plane.cells {w h : Nat} (p : Plane w h) : List (List Bool) :=
  (List.range h).map fun r => (List.range w).map fun c => p.cell c r

/-- What the host may read between steps (60_exceptions.md R220). -/
structure Outputs where
  running : Bool
  fault : Option FaultRecord
  drawPending : Bool
  mode : Resolution
  width : Nat
  height : Nat
  activePlane : List (List Bool)
  eventStream : List Event
  deriving DecidableEq, Repr

/-- `Observe` (60_exceptions.md R216, R220): the active plane and its dimensions by the mode
(10_state.md R33). -/
def State.observe (s : State) : Outputs where
  running := s.running
  fault := s.fault
  drawPending := s.drawPending
  mode := s.mode
  width := match s.mode with | .standard => 64 | .extended => 128
  height := match s.mode with | .standard => 32 | .extended => 64
  activePlane := match s.mode with | .standard => s.pstd.cells | .extended => s.pext.cells
  eventStream := s.eventStream

/-- An upper-case hexadecimal digit. -/
def hexDigit (d : BitVec 4) : Char := ['0', '1', '2', '3', '4', '5', '6', '7', '8', '9', 'A', 'B',
  'C', 'D', 'E', 'F'].getD d.toNat '0'

/-- The rendering of an unknown opcode, "hexadecimal, 4 digits, upper-case", leading zeros kept
(40_step_cycle.md R100). -/
def reportDigits (op : Word) : List Char :=
  [hexDigit (op.extractLsb' 12 4), hexDigit (op.extractLsb' 8 4), hexDigit (op.extractLsb' 4 4),
   hexDigit (op.extractLsb' 0 4)]

end Sys2Proof.Machine
end

