-- ==== Sys2Proof/Safety.lean ====
section
/-! DEFINITION. The terms claims are stated in: what a step or an instruction leaves unchanged (the
frame), how the pc moves, what a cell of the active plane and a pixel of a sprite are, when a run is
safe (it has met no fault), and the invariants that every step keeps. -/

namespace Sys2Proof.Machine

/-! ## How the pc moves (40_step_cycle.md R94) -/

/-- `pc <- NEXT`: (pc + 2) mod 65536. -/
def FallsThrough (s t : State) : Prop := t.pc.toNat = (s.pc.toNat + 2) % 65536

/-- `pc <- SKIP`: (pc + 4) mod 65536. -/
def Skips (s t : State) : Prop := t.pc.toNat = (s.pc.toNat + 4) % 65536

/-! ## Frames -/

/-- The parts of the state other than the pc. -/
inductive Part where
  | regs
  | ireg
  | dt
  | st
  | stack
  | sp
  | mem
  | keys
  | mode
  | pstd
  | pext
  | drawPending
  | running
  | fault
  | events
  | draws
  deriving DecidableEq, Repr

/-- Every part but the pc and the parts named in `written` is unchanged; memory is compared byte by
byte, through the machine's own read. -/
structure Frame (written : List Part) (s t : State) : Prop where
  regs : Part.regs ∉ written → ∀ j : Reg, t.getV j = s.getV j
  ireg : Part.ireg ∉ written → t.ireg = s.ireg
  dt : Part.dt ∉ written → t.dt = s.dt
  st : Part.st ∉ written → t.st = s.st
  stack : Part.stack ∉ written → t.stack = s.stack
  sp : Part.sp ∉ written → t.sp = s.sp
  mem : Part.mem ∉ written → ∀ a : Nat, Memory.read t.mem a = Memory.read s.mem a
  keys : Part.keys ∉ written → t.keys = s.keys
  mode : Part.mode ∉ written → t.mode = s.mode
  pstd : Part.pstd ∉ written → t.pstd = s.pstd
  pext : Part.pext ∉ written → t.pext = s.pext
  drawPending : Part.drawPending ∉ written → t.drawPending = s.drawPending
  running : Part.running ∉ written → t.running = s.running
  fault : Part.fault ∉ written → t.fault = s.fault
  events : Part.events ∉ written → t.events = s.events
  draws : Part.draws ∉ written → t.draws = s.draws

/-- Every register but those in `dest` is unchanged. -/
def RegsKeptBut (dest : List Reg) (s t : State) : Prop := ∀ j : Reg, j ∉ dest → t.getV j = s.getV j

/-- The registers an instruction may write, by the x field and the side effect on VF (10_state.md R21,
R22; 48_familyF.md R189 for the block load). -/
def regMayChange (i : Instr) (j : Reg) : Prop :=
  match i with
  | .cls | .ret | .exit | .low | .high | .jp _ | .call _ | .seImm _ _ | .sneImm _ _ | .seReg _ _
  | .sneReg _ _ | .ldI _ | .jpV0 _ | .skp _ | .sknp _ | .ldDtVx _ | .ldStVx _ | .ldF _ | .ldHf _
  | .ldB _ | .storeRegs _ => False
  | .ldImm x _ | .addImm x _ | .ldReg x _ | .orReg x _ | .andReg x _ | .xorReg x _ | .rnd x _
  | .ldVxDt x | .ldVxK x => j = x
  | .addReg x _ | .subReg x _ | .shr x _ | .subn x _ | .shl x _ => j = x ∨ j = Reg.flag
  | .drw _ _ _ | .addI _ => j = Reg.flag
  | .loadRegs x => j.toNat ≤ x.toNat

/-- The addresses an instruction may store to, computed from I as its meaning computes them
(20_memory.md R59). -/
def byteMayChange (i : Instr) (s : State) (a : Nat) : Prop :=
  match i with
  | .ldB _ => s.ireg.toNat ≤ a ∧ a < s.ireg.toNat + 3
  | .storeRegs x => s.ireg.toNat ≤ a ∧ a < s.ireg.toNat + (x.toNat + 1)
  | .cls | .ret | .exit | .low | .high | .jp _ | .call _ | .seImm _ _ | .sneImm _ _ | .seReg _ _
  | .ldImm _ _ | .addImm _ _ | .ldReg _ _ | .orReg _ _ | .andReg _ _ | .xorReg _ _ | .addReg _ _
  | .subReg _ _ | .shr _ _ | .subn _ _ | .shl _ _ | .sneReg _ _ | .ldI _ | .jpV0 _ | .rnd _ _
  | .drw _ _ _ | .skp _ | .sknp _ | .ldVxDt _ | .ldVxK _ | .ldDtVx _ | .ldStVx _ | .addI _ | .ldF _
  | .ldHf _ | .loadRegs _ => False

/-! ## The active plane and a sprite's pixels (10_state.md R33, 46_draw_D.md R161, R163) -/

/-- W, the active plane's width. -/
def State.width (s : State) : Nat := match s.mode with | .standard => 64 | .extended => 128

/-- H, the active plane's height. -/
def State.height (s : State) : Nat := match s.mode with | .standard => 32 | .extended => 64

/-- `P[c][r]` of the active plane. -/
def State.activeCell (s : State) (c r : Nat) : Bool :=
  match s.mode with
  | .standard => s.pstd.cell c r
  | .extended => s.pext.cell c r

/-- Some 1 bit of the n-row sprite at I, drawn at column `x` and row `y`, lands on the cell: the bit
`dc` columns and `dr` rows in is bit 7 - dc of M[I + dr], and it lands at ((x + dc) mod W,
(y + dr) mod H). -/
def SpriteCovers (s : State) (x y n c r : Nat) : Prop :=
  ∃ dr, dr < n ∧ ∃ dc, dc < 8 ∧ (Memory.read s.mem (s.ireg.toNat + dr)).getLsbD (7 - dc) = true
    ∧ c = (x + dc) % s.width ∧ r = (y + dr) % s.height

/-! ## Safe runs -/

/-- The run has met no undefined condition of the source (60_exceptions.md R207: a faulted state "is
not a successful end"). -/
def State.safe (s : State) : Prop := s.fault = none

/-- The machine takes no further step (40_step_cycle.md R90). -/
def State.terminal (s : State) : Prop := s.running = false ∨ s.fault ≠ none

/-! ## Invariants -/

/-- Memory keeps its canonical form, the model's own representation (log entry 10). -/
def MemoryCanonical (s : State) : Prop := Memory.wf s.mem = true

/-- The pc is at most 0x10FE, "the largest value pc can reach" (10_state.md R20), and every return
address is the address of a CALL that was fetched, so at most 0xFFE. -/
def PcInReach (s : State) : Prop :=
  s.pc.toNat ≤ 0x10FE ∧ ∀ j, (h : j < 16) → s.stack[j].toNat ≤ 0xFFE

/-- What a fault record says of the state it stands in, by its kind (60_exceptions.md R201 to R206): a
fault commits nothing, so the state still shows the condition that raised it. -/
def FaultRecord.explains (f : FaultRecord) (s : State) : Prop :=
  f.pc = s.pc ∧
  match f.kind with
  | .fetchOutOfRange => 0xFFE < s.pc.toNat ∧ f.op = none ∧ f.addr = some s.pc.toNat
  | .memOutOfRange =>
    ∃ op len, f.op = some op ∧ f.addr = some (max s.ireg.toNat 0x1000)
      ∧ 0 < len ∧ 0xFFF < s.ireg.toNat + len - 1
      ∧ ((∃ x y n, decodeWord op = .ok (.drw x y n) ∧ len = n.toNat)
        ∨ (∃ x, decodeWord op = .ok (.ldB x) ∧ len = 3)
        ∨ (∃ x, decodeWord op = .ok (.storeRegs x) ∧ len = x.toNat + 1)
        ∨ ∃ x, decodeWord op = .ok (.loadRegs x) ∧ len = x.toNat + 1)
  | .stackOverflow =>
    s.sp.val = 16 ∧ f.addr = none ∧ ∃ op nnn, f.op = some op ∧ decodeWord op = .ok (.call nnn)
  | .stackUnderflow => s.sp.val = 0 ∧ f.addr = none ∧ f.op = some 0x00EE
  | .keyOutOfRange =>
    ∃ op x, f.op = some op ∧ (decodeWord op = .ok (.skp x) ∨ decodeWord op = .ok (.sknp x))
      ∧ 0xF < (s.getV x).toNat ∧ f.addr = some (s.getV x).toNat

/-- A recorded fault is explained by the state that holds it. -/
def FaultExplained (s : State) : Prop := ∀ f, s.fault = some f → f.explains s

end Sys2Proof.Machine
end

