-- ==== Sys2Proof/Certificates/Slice0/Obligations.lean ====
section
/-! DEFINITION. The statements for the provers, from the numbered rules of spec/. Each docstring cites
the rules it formalises. `Frame`, `RegsKeptBut`, `FallsThrough`, `Skips` and the invariants are in
Sys2Proof/Safety.lean. -/

open Sys2Proof Sys2Proof.Machine

/-! ## Encoding and decoding (30_encoding.md) -/

/-- Decode of encode, every instruction with every operand (R72, R74). -/
def Obligations.DecodeOfEncodeIsTheInstruction : Prop :=
  ∀ i : Instr, i.wellFormed = true → decodeWord (encode i) = .ok i

/-- Encode of decode: the fields and the fixed bits are the whole word, so no bit of a word that decodes
is dropped (R71, R72, R74). -/
def Obligations.EncodeOfDecodeIsTheWord : Prop :=
  ∀ (op : Word) (i : Instr), decodeWord op = .ok i → encode i = op

/-- A word decodes exactly when every fixed bit of some row of the opcode table matches, and then to
that row's instruction (R75). -/
def Obligations.WordDecodesIffSomeRowMatches : Prop :=
  ∀ op : Word, ((∃ i, decodeWord op = .ok i) ↔ wordWellFormed op = true) ∧
    ∀ i, decodeWord op = .ok i → i.row.covers op = true

/-- The UNKNOWN words, family by family, as the table of R76 lists them, are rejected, each under its own
word; every other word decodes (R74, R75, R76). -/
def Obligations.UnknownWordsAreTheListedOnes : Prop :=
  ∀ op : Word,
    if (op.toNat / 4096 = 0x0 ∧ op.toNat ∉ [0x00E0, 0x00EE, 0x00FD, 0x00FE, 0x00FF]) ∨
      (op.toNat / 4096 = 0x5 ∧ op.toNat % 16 ≠ 0) ∨
      (op.toNat / 4096 = 0x8 ∧ op.toNat % 16 ∈ [0x8, 0x9, 0xA, 0xB, 0xC, 0xD, 0xF]) ∨
      (op.toNat / 4096 = 0x9 ∧ op.toNat % 16 ≠ 0) ∨
      (op.toNat / 4096 = 0xE ∧ op.toNat % 256 ∉ [0x9E, 0xA1]) ∨
      (op.toNat / 4096 = 0xF ∧
        op.toNat % 256 ∉ [0x07, 0x0A, 0x15, 0x18, 0x1E, 0x29, 0x30, 0x33, 0x55, 0x65])
    then decodeWord op = .error (.unknown op)
    else ∃ i, decodeWord op = .ok i

/-- Words the spec writes out, one of each family, with the instruction it says each is
(95_test_vectors.md; R74). -/
def Obligations.WrittenOutWordsDecode : Prop :=
  decodeWord 0x00E0 = .ok .cls ∧ decodeWord 0x1234 = .ok (.jp 0x234) ∧
  decodeWord 0x220A = .ok (.call 0x20A) ∧ decodeWord 0x3008 = .ok (.seImm 0 8) ∧
  decodeWord 0x4311 = .ok (.sneImm 3 0x11) ∧ decodeWord 0x5120 = .ok (.seReg 1 2) ∧
  decodeWord 0x6005 = .ok (.ldImm 0 5) ∧ decodeWord 0x7003 = .ok (.addImm 0 3) ∧
  decodeWord 0x8346 = .ok (.shr 3 4) ∧ decodeWord 0x9120 = .ok (.sneReg 1 2) ∧
  decodeWord 0xA300 = .ok (.ldI 0x300) ∧ decodeWord 0xB300 = .ok (.jpV0 0x300) ∧
  decodeWord 0xC50F = .ok (.rnd 5 0x0F) ∧
  decodeWord 0xD125 = .ok (.drw 1 2 5) ∧ decodeWord 0xE4A1 = .ok (.sknp 4) ∧
  decodeWord 0xF265 = .ok (.loadRegs 2)

/-! ## The step cycle (40_step_cycle.md) -/

/-- An enabled step whose two bytes at the pc decode to a well-formed instruction runs exactly it: what
the instruction left is committed with the tick when it is done, as it stands when it faulted, and not
at all when it waits (R91, R93, R97, R98, R101). -/
def Obligations.StepRunsTheDecodedInstruction : Prop :=
  ∀ (s t : State) (i : Instr), s.running = true → s.fault = none → s.pc.toNat ≤ 0xFFE →
    decode [Memory.read s.mem s.pc.toNat, Memory.read s.mem (s.pc.toNat + 1)] = .ok (i, []) →
    i.wellFormed = true → exec i s = .next t →
    (t.fault ≠ none → step s = .next t) ∧
    (t.fault = none → waitsForKey i s = true → step s = .next s) ∧
    (t.fault = none → waitsForKey i s = false → step s = .next t.tick)

/-- A request in a halted or faulted state changes nothing and emits nothing, and so does every later
one, whatever the parameters; SetKey, AckFrame and Observe still act there (R90). -/
def Obligations.StepIsInertWhenHaltedOrFaulted : Prop :=
  ∀ (p : Parameters) (s : State) (b : Bool), s.running = false ∨ s.fault ≠ none →
    (∀ k, Host.Core.run Sys2Proof.core k s = .next s) ∧
    Session.transact p ⟨s, b⟩ .step = .next ⟨s, true⟩ ∧
    (∀ j level, Session.transact p ⟨s, b⟩ (.setKey j level) = .next ⟨s.setKey j level, b⟩) ∧
    Session.transact p ⟨s, b⟩ .ackFrame = .next ⟨s.ackFrame, b⟩ ∧
    Session.transact p ⟨s, b⟩ .observe = .next ⟨s, b⟩

/-- A fetch with pc > 0xFFE faults, recording the pc twice and no word; nothing else changes
(60_exceptions.md R202, R207). -/
def Obligations.FetchPastMemoryFaults : Prop :=
  ∀ s : State, s.running = true → s.fault = none → 0xFFE < s.pc.toNat →
    ∃ t, step s = .next t ∧
      t.fault = some ⟨.fetchOutOfRange, s.pc, none, some s.pc.toNat⟩ ∧
      t.pc = s.pc ∧ Frame [.fault] s t

/-- An UNKNOWN word is reported, the pc falls through, the timers tick and nothing else changes; the
report comes before the silence cue (R99, R101). -/
def Obligations.UnknownWordIsReportedAndSkipped : Prop :=
  ∀ (s : State) (op : Word) (e : DecodeError), s.running = true → s.fault = none →
    s.fetch = some op → decodeWord op = .error e →
    ∃ t, step s = .next t ∧ FallsThrough s t ∧
      t.dt.toNat = s.dt.toNat - 1 ∧ t.st.toNat = s.st.toNat - 1 ∧
      (t.st.toNat = 0 → t.eventStream = s.eventStream ++ [.unknownOpcode op, .silence]) ∧
      (t.st.toNat ≠ 0 → t.eventStream = s.eventStream ++ [.unknownOpcode op]) ∧
      Frame [.dt, .st, .events] s t

/-- The fetch joins the bytes at pc and pc + 1 big-endian, whatever the parity of the pc
(20_memory.md R57, R58; R91). -/
def Obligations.FetchIsBigEndian : Prop :=
  ∀ s : State, s.pc.toNat ≤ 0xFFE → ∃ op, s.fetch = some op ∧
    op.toNat = (Memory.read s.mem s.pc.toNat).toNat * 256
      + (Memory.read s.mem (s.pc.toNat + 1)).toNat

/-- The tick: each timer goes down by 1 unless 0, and the silence cue is emitted exactly when ST is 0
after it (R95, R96). -/
def Obligations.TickCountsDownAndCuesSilence : Prop :=
  ∀ s : State, ∃ t, s.tick = t ∧
    t.dt.toNat = s.dt.toNat - 1 ∧ t.st.toNat = s.st.toNat - 1 ∧
    (t.st.toNat = 0 → t.eventStream = s.eventStream ++ [.silence]) ∧
    (t.st.toNat ≠ 0 → t.eventStream = s.eventStream) ∧
    t.pc = s.pc ∧ Frame [.dt, .st, .events] s t

/-- A waiting step leaves the state exactly as it was; in a machine with TICK_WHILE_WAITING true it ticks
and changes nothing else (R97). -/
def Obligations.WaitingStepHoldsTheTimers : Prop :=
  ∀ (s : State) (op : Word) (x : Reg), s.running = true → s.fault = none → s.fetch = some op →
    decodeWord op = .ok (.ldVxK x) → (∀ k, (h : k < 16) → s.keys[k] = false) →
    step s = .next s ∧
    ∀ (p : Parameters) (b : Bool), Session.transact p ⟨s, b⟩ .step =
      .next ⟨if p.tickWhileWaiting then s.tick else s, true⟩

/-- A step that meets a fault commits nothing of its instruction: the state is as before but for the
record, which holds the faulting address and the fetched word (none when the fetch faulted); the
machine is then terminal (60_exceptions.md R207; 10_state.md R37). -/
def Obligations.FaultingStepWritesOnlyTheRecord : Prop :=
  ∀ (s t : State) (f : FaultRecord), s.running = true → s.fault = none → step s = .next t →
    t.fault = some f →
    t = { s with fault := some f } ∧ f.pc = s.pc ∧ f.op = s.fetch ∧ step t = .next t

/-! ## Invariants every step keeps -/

/-- Every step keeps memory in its canonical form. The form is the model's own representation of the 4096
bytes (log entry 10): no rule of the spec gives it. -/
def Obligations.StepKeepsMemoryCanonical : Prop :=
  ∀ s t : State, MemoryCanonical s → step s = .next t → MemoryCanonical t

/-- Every step keeps the pc at most 0x10FE and every return address at most 0xFFE (10_state.md R20,
R27). -/
def Obligations.StepKeepsPcInReach : Prop :=
  ∀ s t : State, PcInReach s → step s = .next t → PcInReach t

/-- In every state a step leads to, a recorded fault is explained by that state: its kind's condition
holds, and its word, its address and its pc are those the spec says it records (60_exceptions.md R201
to R206). -/
def Obligations.StepKeepsFaultExplained : Prop :=
  ∀ s t : State, FaultExplained s → step s = .next t → FaultExplained t

/-- The three invariants hold after construction with any FONT, and at reset. The first, the canonical
form of the memory list, is the model's own representation (log entry 10); the other two read the pc, the
stack and the fault record as R230 leaves them. -/
def Obligations.ResetMeetsTheInvariants : Prop :=
  (∀ font : Vector Byte 80, MemoryCanonical (State.construct font) ∧
    PcInReach (State.construct font) ∧ FaultExplained (State.construct font)) ∧
  MemoryCanonical State.reset ∧ PcInReach State.reset ∧ FaultExplained State.reset

/-! ## Reset and Load (70_reset_and_hazards.md) -/

/-- What construction leaves, for any FONT: its 80 bytes from address 0, and the state elements as R230
and R231 list them (I, sp, DT, ST and draw_pending are 0 by the spec's decision D12). Two clauses are not
the spec's alone. That the event stream is empty, also after a Construct in a session that has emitted
events, is the model's choice (log entry 1): R230 says only that construction emits no event. That an
address above 0xFFF, where there is no memory, reads 0 is the model's own reading (log entry 10): the
spec gives 0 for 0x050 to 0xFFF. With the default FONT the state is `State.reset`: glyph d at 5d to
5d + 4 (R36; the default bytes are log entry 5). -/
def Obligations.ResetLeavesTheConstructedState : Prop :=
  (∀ (p : Parameters) (c : Session), ∃ d, c.transact p .construct = .next d ∧ d.stepped = false ∧
    (∀ a, (h : a < 80) → Memory.read d.core.mem a = p.font[a]) ∧
    (∀ a, 80 ≤ a → Memory.read d.core.mem a = 0) ∧
    d.core.pc.toNat = 0x200 ∧ (∀ j : Reg, d.core.getV j = 0) ∧
    d.core.ireg = 0 ∧ d.core.dt = 0 ∧ d.core.st = 0 ∧
    (∀ j, (h : j < 16) → d.core.stack[j] = 0) ∧ d.core.sp.val = 0 ∧
    (∀ k, (h : k < 16) → d.core.keys[k] = false) ∧
    (∀ c r, d.core.pstd.cell c r = false ∧ d.core.pext.cell c r = false) ∧
    d.core.mode = .standard ∧ d.core.drawPending = false ∧ d.core.running = true ∧
    d.core.fault = none ∧ d.core.eventStream = []) ∧
  State.construct Parameters.defaults.font = State.reset ∧
  (List.range 16).map (fun d => Memory.readBytes State.reset.mem (5 * d) 5) =
    [[0xF0, 0x90, 0x90, 0x90, 0xF0], [0x20, 0x60, 0x20, 0x20, 0x70],
     [0xF0, 0x10, 0xF0, 0x80, 0xF0], [0xF0, 0x10, 0xF0, 0x10, 0xF0],
     [0x90, 0x90, 0xF0, 0x10, 0x10], [0xF0, 0x80, 0xF0, 0x10, 0xF0],
     [0xF0, 0x80, 0xF0, 0x90, 0xF0], [0xF0, 0x10, 0x20, 0x40, 0x40],
     [0xF0, 0x90, 0xF0, 0x90, 0xF0], [0xF0, 0x90, 0xF0, 0x10, 0xF0],
     [0xF0, 0x90, 0xF0, 0x90, 0x90], [0xE0, 0x90, 0xE0, 0x90, 0xE0],
     [0xF0, 0x80, 0x80, 0x80, 0xF0], [0xE0, 0x90, 0x90, 0x90, 0xE0],
     [0xF0, 0x80, 0xF0, 0x80, 0xF0], [0xF0, 0x80, 0xF0, 0x80, 0x80]]

/-- Load, before the first Step, copies the image verbatim to 0x200 and writes nothing else, up to 3584
bytes; above that it fails with ImageTooLarge and writes nothing, ending the run (R233, R234). -/
def Obligations.LoadCopiesTheImage : Prop :=
  ∀ (p : Parameters) (c : Session) (img : List Byte),
    (c.stepped = false → img.length ≤ 3584 →
      ∃ d, c.transact p (.load img) = .next d ∧ d.stepped = false ∧
        (∀ j, j < img.length → Memory.read d.core.mem (0x200 + j) = img.getD j 0) ∧
        (∀ a, a < 0x200 ∨ 0x200 + img.length ≤ a →
          Memory.read d.core.mem a = Memory.read c.core.mem a) ∧
        d.core.pc = c.core.pc ∧ Frame [.mem] c.core d.core) ∧
    (c.stepped = false → 3584 < img.length →
      c.transact p (.load img) = .fault (.imageTooLarge img.length))

/-- Stepping with no image, after construction with any FONT: each of the first 1792 steps reports 0000 and
falls through, and the next fetch faults at 0x1000 (R237). -/
def Obligations.EmptyImageRunsToTheFetchFault : Prop :=
  ∀ font : Vector Byte 80,
  (∀ k, k ≤ 1792 → ∃ t, Host.Core.run Sys2Proof.core k (State.construct font) = .next t ∧
    t.pc.toNat = 0x200 + 2 * k ∧
    t.eventStream = (List.replicate k [Event.unknownOpcode 0x0000, Event.silence]).flatten ∧
    Frame [.events] (State.construct font) t) ∧
  ∃ t, Host.Core.run Sys2Proof.core 1793 (State.construct font) = .next t ∧ t.pc.toNat = 0x1000 ∧
    t.running = true ∧ t.fault = some ⟨.fetchOutOfRange, 0x1000, none, some 0x1000⟩

/-- SetKey, Quit and AckFrame write their own flag and nothing else, in any state (60_exceptions.md
R217, R218, R219); a Load once a Step has been requested has no transition (70_reset_and_hazards.md
R235; that the model refuses it by name is log entry 8). -/
def Obligations.HostMovesWriteTheirOwnFlag : Prop :=
  ∀ (p : Parameters) (c : Session) (k : Fin 16) (b : Bool),
    (∃ d, c.transact p (.setKey k b) = .next d ∧ d.stepped = c.stepped ∧ d.core.pc = c.core.pc ∧
      (∀ j : Fin 16, d.core.keys[j.val] = if j = k then b else c.core.keys[j.val]) ∧
      Frame [.keys] c.core d.core) ∧
    (∃ d, c.transact p .quit = .next d ∧ d.stepped = c.stepped ∧ d.core.pc = c.core.pc ∧
      d.core.running = false ∧ Frame [.running] c.core d.core) ∧
    (∃ d, c.transact p .ackFrame = .next d ∧ d.stepped = c.stepped ∧ d.core.pc = c.core.pc ∧
      d.core.drawPending = false ∧ Frame [.drawPending] c.core d.core) ∧
    (∀ img, c.stepped = true → c.transact p (.load img) = .refused .loadAfterStep)

/-! ## Rules of the whole machine -/

/-- No instruction writes a register but those its x field and its side effect on VF name (10_state.md
R21, R22). -/
def Obligations.OnlyNamedRegistersChange : Prop :=
  ∀ (i : Instr) (s t : State), exec i s = .next t →
    ∀ j : Reg, ¬ regMayChange i j → t.getV j = s.getV j

/-- No instruction writes a byte of memory but the three of Fx33 and the x + 1 of Fx55, all at I
(20_memory.md R59). -/
def Obligations.OnlyStoredBytesChange : Prop :=
  ∀ (i : Instr) (s t : State), exec i s = .next t →
    ∀ a : Nat, ¬ byteMayChange i s a → Memory.read t.mem a = Memory.read s.mem a

/-- Who writes each special register (10_state.md R23, R24, R25, R27, R28, R31, R35, R38). -/
def Obligations.OnlyNamedInstructionsWriteSpecialState : Prop :=
  ∀ (i : Instr) (s t : State), exec i s = .next t →
    ((∀ nnn x, i ≠ .ldI nnn ∧ i ≠ .addI x ∧ i ≠ .ldF x ∧ i ≠ .ldHf x) → t.ireg = s.ireg) ∧
    ((∀ x, i ≠ .ldDtVx x) → t.dt = s.dt) ∧
    ((∀ x, i ≠ .ldStVx x) → t.st = s.st) ∧
    ((∀ nnn, i ≠ .call nnn) → t.stack = s.stack) ∧
    ((∀ nnn, i ≠ .call nnn ∧ i ≠ .ret) → t.sp = s.sp) ∧
    (i ≠ .low ∧ i ≠ .high → t.mode = s.mode) ∧
    (i ≠ .exit → t.running = s.running) ∧
    t.keys = s.keys ∧ t.events = s.events

/-- Only 00E0 and Dxyn write a plane or draw_pending, none clears draw_pending, and a step never
touches the plane that is inactive (10_state.md R32, R33, R34). -/
def Obligations.InactivePlaneIsNeverTouched : Prop :=
  (∀ (i : Instr) (s t : State), exec i s = .next t → i ≠ .cls → (∀ x y n, i ≠ .drw x y n) →
    t.pstd = s.pstd ∧ t.pext = s.pext ∧ t.drawPending = s.drawPending) ∧
  ∀ s t : State, step s = .next t →
    (s.mode = .standard → t.pext = s.pext) ∧ (s.mode = .extended → t.pstd = s.pstd) ∧
    (s.drawPending = true → t.drawPending = true)

/-- No step writes the key state, sets running back to 1, or clears a recorded fault (10_state.md R30,
R35, R37). -/
def Obligations.StepNeverRestartsOrPressesKeys : Prop :=
  ∀ s t : State, step s = .next t →
    t.keys = s.keys ∧ (s.running = false → t.running = false) ∧
    ∀ f, s.fault = some f → t.fault = some f

/-- The event stream only grows: a step appends to it and never rewrites it (60_exceptions.md R220). -/
def Obligations.StepOnlyAppendsEvents : Prop :=
  ∀ s t : State, step s = .next t → ∃ new, t.eventStream = s.eventStream ++ new ∧
    new.length ≤ 2 ∧ (∀ op, Event.unknownOpcode op ∈ new → s.fetch = some op)

/-- No instruction but Ex9E, ExA1 and Fx0A reads the key state (10_state.md R30). -/
def Obligations.OnlyKeyInstructionsReadKeys : Prop :=
  ∀ (i : Instr) (s t : State) (keys : Vector Bool 16),
    (∀ x, i ≠ .skp x ∧ i ≠ .sknp x ∧ i ≠ .ldVxK x) → exec i s = .next t →
    exec i { s with keys := keys } = .next { t with keys := keys }

/-- No instruction reads ST (10_state.md R25). -/
def Obligations.NoInstructionReadsTheSoundTimer : Prop :=
  ∀ (i : Instr) (s t : State) (v : Byte), exec i s = .next t →
    ((∀ x, i ≠ .ldStVx x) → exec i { s with st := v } = .next { t with st := v }) ∧
    ((∃ x, i = .ldStVx x) → exec i { s with st := v } = .next t)

/-- A stack slot at or above sp is never observable: changing it changes nothing an instruction does to
the rest of the state, nor to the occupied slots (10_state.md R27). -/
def Obligations.StaleStackSlotsAreNeverRead : Prop :=
  ∀ (i : Instr) (s t : State) (slots : Vector Word 16),
    (∀ j, (h : j < 16) → j < s.sp.val → slots[j] = s.stack[j]) → exec i s = .next t →
    ∃ u, exec i { s with stack := slots } = .next u ∧ u = { t with stack := u.stack } ∧
      ∀ j, (h : j < 16) → j < t.sp.val → u.stack[j] = t.stack[j]

/-! ## Family 0 (41_family0_system.md) -/

/-- 00E0 clears every cell of the active plane and no other, and sets draw_pending (R110). -/
def Obligations.ClearZeroesTheActivePlane : Prop :=
  ∀ s : State, ∃ t, exec .cls s = .next t ∧ FallsThrough s t ∧ t.drawPending = true ∧
    (∀ c r, t.activeCell c r = false) ∧
    (s.mode = .standard → t.pext = s.pext) ∧ (s.mode = .extended → t.pstd = s.pstd) ∧
    Frame [.pstd, .pext, .drawPending] s t

/-- 00EE: with sp = 0 STACK_UNDERFLOW, else sp goes down by 1 and the pc is the popped slot plus 2; the
slot keeps its value (R111; 60_exceptions.md R205). -/
def Obligations.ReturnGoesPastTheCallSite : Prop :=
  ∀ s : State,
    (s.sp.val = 0 → ∃ t, exec .ret s = .next t ∧
      t.fault = some ⟨.stackUnderflow, s.pc, some 0x00EE, none⟩ ∧ t.pc = s.pc ∧ Frame [.fault] s t) ∧
    (0 < s.sp.val → ∃ t, exec .ret s = .next t ∧ t.sp.val = s.sp.val - 1 ∧
      t.pc.toNat = ((s.stack.getD (s.sp.val - 1) 0).toNat + 2) % 65536 ∧ Frame [.sp] s t)

/-- 00FD clears running and falls through; no later step changes anything (R112). -/
def Obligations.ExitHaltsTheMachine : Prop :=
  ∀ s : State, ∃ t, exec .exit s = .next t ∧ FallsThrough s t ∧ t.running = false ∧
    Frame [.running] s t ∧ ∀ k, Host.Core.run Sys2Proof.core k t.tick = .next t.tick

/-- 00FE and 00FF set the mode and touch neither plane nor draw_pending (R113, R114). -/
def Obligations.ModeInstructionsSetTheMode : Prop :=
  ∀ s : State,
    (∃ t, exec .low s = .next t ∧ FallsThrough s t ∧ t.mode = .standard ∧ Frame [.mode] s t) ∧
    (∃ t, exec .high s = .next t ∧ FallsThrough s t ∧ t.mode = .extended ∧ Frame [.mode] s t)

/-! ## Jumps, calls and skips (42_flow_1_to_5.md, 45_family9_to_C.md) -/

/-- 1nnn sets the pc to nnn; Bnnn to nnn + V0, never reduced to 12 bits (R120, R152). -/
def Obligations.JumpsSetThePc : Prop :=
  ∀ (nnn : Addr) (s : State),
    (∃ t, exec (.jp nnn) s = .next t ∧ t.pc.toNat = nnn.toNat ∧ Frame [] s t) ∧
    (∃ t, exec (.jpV0 nnn) s = .next t ∧
      t.pc.toNat = (nnn.toNat + (s.getV 0).toNat) % 65536 ∧
      t.pc.toNat = nnn.toNat + (s.getV 0).toNat ∧ Frame [] s t)

/-- 2nnn: with sp = 16 STACK_OVERFLOW, else its own address goes into S[sp], sp goes up by 1 and the pc
is nnn (R121; 60_exceptions.md R204). -/
def Obligations.CallPushesItsOwnAddress : Prop :=
  ∀ (nnn : Addr) (s : State),
    (s.sp.val = 16 → ∃ t, exec (.call nnn) s = .next t ∧
      t.fault = some ⟨.stackOverflow, s.pc, some (BitVec.ofNat 16 (0x2000 + nnn.toNat)), none⟩ ∧
      t.pc = s.pc ∧ Frame [.fault] s t) ∧
    (s.sp.val < 16 → ∃ t, exec (.call nnn) s = .next t ∧ t.pc.toNat = nnn.toNat ∧
      t.sp.val = s.sp.val + 1 ∧ t.stack.getD s.sp.val 0 = s.pc ∧
      (∀ j, j ≠ s.sp.val → t.stack.getD j 0 = s.stack.getD j 0) ∧ Frame [.stack, .sp] s t)

/-- A call and then a return come back to the call site plus 2, with sp as it was and every stack slot but
the one the call wrote (R111, R121; 95_test_vectors.md E6). -/
def Obligations.CallThenReturnComesBack : Prop :=
  ∀ (nnn : Addr) (s : State), s.sp.val < 16 →
    ∃ t u, exec (.call nnn) s = .next t ∧ exec .ret t = .next u ∧
      FallsThrough s u ∧ (∀ j, j ≠ s.sp.val → u.stack.getD j 0 = s.stack.getD j 0) ∧
      Frame [.stack] s u

/-- 3xnn skips when Vx = nn, 4xnn when Vx ≠ nn; else they fall through (R122, R123). -/
def Obligations.ImmediateSkipsCompare : Prop :=
  ∀ (x : Reg) (nn : Byte) (s : State),
    (∃ t, exec (.seImm x nn) s = .next t ∧ Frame [] s t ∧
      ((s.getV x).toNat = nn.toNat → Skips s t) ∧ ((s.getV x).toNat ≠ nn.toNat → FallsThrough s t)) ∧
    (∃ t, exec (.sneImm x nn) s = .next t ∧ Frame [] s t ∧
      ((s.getV x).toNat ≠ nn.toNat → Skips s t) ∧ ((s.getV x).toNat = nn.toNat → FallsThrough s t))

/-- 5xy0 skips when Vx = Vy, 9xy0 when Vx ≠ Vy; else they fall through (R124, R150). -/
def Obligations.RegisterSkipsCompare : Prop :=
  ∀ (x y : Reg) (s : State),
    (∃ t, exec (.seReg x y) s = .next t ∧ Frame [] s t ∧
      ((s.getV x).toNat = (s.getV y).toNat → Skips s t) ∧
      ((s.getV x).toNat ≠ (s.getV y).toNat → FallsThrough s t)) ∧
    (∃ t, exec (.sneReg x y) s = .next t ∧ Frame [] s t ∧
      ((s.getV x).toNat ≠ (s.getV y).toNat → Skips s t) ∧
      ((s.getV x).toNat = (s.getV y).toNat → FallsThrough s t))

/-! ## Families 6, 7, A and C (43_immediate_6_7.md, 45_family9_to_C.md) -/

/-- 6xnn loads nn (R130); 7xnn adds nn modulo 256 and writes no flag (R131). -/
def Obligations.ImmediateLoadAndAdd : Prop :=
  ∀ (x : Reg) (nn : Byte) (s : State),
    (∃ t, exec (.ldImm x nn) s = .next t ∧ FallsThrough s t ∧ (t.getV x).toNat = nn.toNat ∧
      RegsKeptBut [x] s t ∧ Frame [.regs] s t) ∧
    (∃ t, exec (.addImm x nn) s = .next t ∧ FallsThrough s t ∧
      (t.getV x).toNat = ((s.getV x).toNat + nn.toNat) % 256 ∧
      RegsKeptBut [x] s t ∧ Frame [.regs] s t)

/-- Annn sets I to nnn (R151). -/
def Obligations.IndexLoadSetsI : Prop :=
  ∀ (nnn : Addr) (s : State), ∃ t, exec (.ldI nnn) s = .next t ∧ FallsThrough s t ∧
    t.ireg.toNat = nnn.toNat ∧ Frame [.ireg] s t

/-- Cxnn stores the drawn byte masked by nn, whatever byte the free source gives, and takes a new draw
every time (R153; log entry 2). -/
def Obligations.RandomByteIsDrawnAndMasked : Prop :=
  ∀ (x : Reg) (nn : Byte) (s : State), ∃ t, exec (.rnd x nn) s = .next t ∧ FallsThrough s t ∧
    (∀ b, (t.getV x).getLsbD b = ((Config.randomByte s.draws).getLsbD b && nn.getLsbD b)) ∧
    s.draws < t.draws ∧ RegsKeptBut [x] s t ∧ Frame [.regs, .draws] s t

/-! ## Family 8 (44_alu_8.md) -/

/-- 8xy0 copies, 8xy1 to 8xy3 are bitwise OR, AND and XOR; VF is written only as the destination (R140,
R141, R142, R143). -/
def Obligations.CopyAndLogicWriteNoFlag : Prop :=
  ∀ (x y : Reg) (s : State),
    (∃ t, exec (.ldReg x y) s = .next t ∧ FallsThrough s t ∧ t.getV x = s.getV y ∧
      RegsKeptBut [x] s t ∧ Frame [.regs] s t) ∧
    (∃ t, exec (.orReg x y) s = .next t ∧ FallsThrough s t ∧
      (∀ b, (t.getV x).getLsbD b = ((s.getV x).getLsbD b || (s.getV y).getLsbD b)) ∧
      RegsKeptBut [x] s t ∧ Frame [.regs] s t) ∧
    (∃ t, exec (.andReg x y) s = .next t ∧ FallsThrough s t ∧
      (∀ b, (t.getV x).getLsbD b = ((s.getV x).getLsbD b && (s.getV y).getLsbD b)) ∧
      RegsKeptBut [x] s t ∧ Frame [.regs] s t) ∧
    (∃ t, exec (.xorReg x y) s = .next t ∧ FallsThrough s t ∧
      (∀ b, (t.getV x).getLsbD b = ((s.getV x).getLsbD b ^^ (s.getV y).getLsbD b)) ∧
      RegsKeptBut [x] s t ∧ Frame [.regs] s t)

/-- 8xy4: VF is 1 when the unwrapped sum exceeds 255, else 0, also when x = F, where the sum is lost;
any other Vx holds the sum modulo 256 (R144). -/
def Obligations.AddWritesSumThenCarry : Prop :=
  ∀ (x y : Reg) (s : State), ∃ t, exec (.addReg x y) s = .next t ∧ FallsThrough s t ∧
    (x ≠ Reg.flag → (t.getV x).toNat = ((s.getV x).toNat + (s.getV y).toNat) % 256) ∧
    (255 < (s.getV x).toNat + (s.getV y).toNat → (t.getV Reg.flag).toNat = 1) ∧
    ((s.getV x).toNat + (s.getV y).toNat ≤ 255 → (t.getV Reg.flag).toNat = 0) ∧
    RegsKeptBut [x, Reg.flag] s t ∧ Frame [.regs] s t

/-- 8xy5 is Vx - Vy and 8xy7 is Vy - Vx, modulo 256; VF is 0 on borrow, else 1, also when x = F (R145,
R147). -/
def Obligations.SubtractionsWriteDifferenceThenNoBorrow : Prop :=
  ∀ (x y : Reg) (s : State),
    (∃ t, exec (.subReg x y) s = .next t ∧ FallsThrough s t ∧
      (x ≠ Reg.flag →
        ((t.getV x).toNat : Int) = (((s.getV x).toNat : Int) - (s.getV y).toNat) % 256) ∧
      ((s.getV x).toNat < (s.getV y).toNat → (t.getV Reg.flag).toNat = 0) ∧
      ((s.getV y).toNat ≤ (s.getV x).toNat → (t.getV Reg.flag).toNat = 1) ∧
      RegsKeptBut [x, Reg.flag] s t ∧ Frame [.regs] s t) ∧
    (∃ t, exec (.subn x y) s = .next t ∧ FallsThrough s t ∧
      (x ≠ Reg.flag →
        ((t.getV x).toNat : Int) = (((s.getV y).toNat : Int) - (s.getV x).toNat) % 256) ∧
      ((s.getV y).toNat < (s.getV x).toNat → (t.getV Reg.flag).toNat = 0) ∧
      ((s.getV x).toNat ≤ (s.getV y).toNat → (t.getV Reg.flag).toNat = 1) ∧
      RegsKeptBut [x, Reg.flag] s t ∧ Frame [.regs] s t)

/-- 8xy6 and 8xyE shift Vx by one and put the bit shifted out into VF; with x = F the shift applies to
that bit, so VF ends 0 after 8xy6, and 2 or 0 after 8xyE; Vy is not read (R146, R148). -/
def Obligations.ShiftsWriteFlagThenShift : Prop :=
  ∀ (x y : Reg) (s : State),
    (∃ t, exec (.shr x y) s = .next t ∧ FallsThrough s t ∧
      (x ≠ Reg.flag → (t.getV x).toNat = (s.getV x).toNat / 2 ∧
        (t.getV Reg.flag).toNat = (s.getV x).toNat % 2) ∧
      (x = Reg.flag → (t.getV Reg.flag).toNat = 0) ∧
      RegsKeptBut [x, Reg.flag] s t ∧ Frame [.regs] s t) ∧
    (∃ t, exec (.shl x y) s = .next t ∧ FallsThrough s t ∧
      (x ≠ Reg.flag → (t.getV x).toNat = (s.getV x).toNat * 2 % 256 ∧
        (t.getV Reg.flag).toNat = (s.getV x).toNat / 128) ∧
      (x = Reg.flag → (t.getV Reg.flag).toNat = if 0x80 ≤ (s.getV x).toNat then 2 else 0) ∧
      RegsKeptBut [x, Reg.flag] s t ∧ Frame [.regs] s t) ∧
    ∀ y' : Reg, exec (.shr x y') s = exec (.shr x y) s ∧ exec (.shl x y') s = exec (.shl x y) s

/-! ## Family D (46_draw_D.md) -/

/-- Dxyn with every sprite row in memory: a cell of the active plane is complemented exactly when a 1
bit of the sprite lands on it, at coordinates wrapped into the plane; VF is 1 when such a cell was on,
else 0; draw_pending is set; the inactive plane, memory and I are untouched (R160, R161). -/
def Obligations.DrawTogglesTheSpritesCells : Prop :=
  ∀ (x y : Reg) (n : Count) (s : State), (∀ k, k < n.toNat → s.ireg.toNat + k ≤ 0xFFF) →
    ∃ t, exec (.drw x y n) s = .next t ∧ FallsThrough s t ∧ t.drawPending = true ∧
      (∀ c r,
        (SpriteCovers s (s.getV x).toNat (s.getV y).toNat n.toNat c r →
          t.activeCell c r = !s.activeCell c r) ∧
        (¬ SpriteCovers s (s.getV x).toNat (s.getV y).toNat n.toNat c r →
          t.activeCell c r = s.activeCell c r)) ∧
      ((∃ c r, SpriteCovers s (s.getV x).toNat (s.getV y).toNat n.toNat c r ∧
          s.activeCell c r = true) → (t.getV Reg.flag).toNat = 1) ∧
      ((∀ c r, SpriteCovers s (s.getV x).toNat (s.getV y).toNat n.toNat c r →
          s.activeCell c r = false) → (t.getV Reg.flag).toNat = 0) ∧
      (s.mode = .standard → t.pext = s.pext) ∧ (s.mode = .extended → t.pstd = s.pstd) ∧
      RegsKeptBut [Reg.flag] s t ∧ Frame [.regs, .pstd, .pext, .drawPending] s t

/-- Dxyn with a sprite row above 0xFFF faults, recording the lowest such address and the word; no cell,
VF or draw_pending is written (R163; 60_exceptions.md R203). -/
def Obligations.DrawPastMemoryFaults : Prop :=
  ∀ (x y : Reg) (n : Count) (s : State), 0 < n.toNat → 0xFFF < s.ireg.toNat + n.toNat - 1 →
    ∃ t, exec (.drw x y n) s = .next t ∧
      t.fault = some ⟨.memOutOfRange, s.pc,
        some (BitVec.ofNat 16 (0xD000 + x.toNat * 256 + y.toNat * 16 + n.toNat)),
        some (max s.ireg.toNat 0x1000)⟩ ∧
      t.pc = s.pc ∧ Frame [.fault] s t

/-- Dxy0 draws nothing and cannot fault: VF is 0 and draw_pending 1, whatever I holds (R165). -/
def Obligations.ZeroRowDrawOnlyClearsTheFlag : Prop :=
  ∀ (x y : Reg) (s : State), ∃ t, exec (.drw x y 0) s = .next t ∧ FallsThrough s t ∧
    (t.getV Reg.flag).toNat = 0 ∧ t.drawPending = true ∧ RegsKeptBut [Reg.flag] s t ∧
    Frame [.regs, .drawPending] s t

/-- The same sprite drawn twice at the same place erases itself: both planes are as they were, and the
second draw's VF is 1 exactly when a 1 bit landed on a cell that was off before the first, so on a
clear plane whenever the sprite has a 1 bit (R160, R162; log entry 13 on R162's wording). -/
def Obligations.DrawingTwiceErases : Prop :=
  ∀ (x y : Reg) (n : Count) (s : State), (∀ k, k < n.toNat → s.ireg.toNat + k ≤ 0xFFF) →
    x ≠ Reg.flag → y ≠ Reg.flag →
    ∃ t u, exec (.drw x y n) s = .next t ∧ exec (.drw x y n) t = .next u ∧
      u.pstd = s.pstd ∧ u.pext = s.pext ∧
      ((∃ c r, SpriteCovers s (s.getV x).toNat (s.getV y).toNat n.toNat c r ∧
          s.activeCell c r = false) → (u.getV Reg.flag).toNat = 1) ∧
      ((∀ c r, SpriteCovers s (s.getV x).toNat (s.getV y).toNat n.toNat c r →
          s.activeCell c r = true) → (u.getV Reg.flag).toNat = 0)

/-! ## Keys (47_keys_E.md, 48_familyF.md) -/

/-- Ex9E skips when key Vx is pressed, ExA1 when it is released; a Vx above 0xF faults with
KEY_OUT_OF_RANGE and its value (R170, R171; 60_exceptions.md R206). -/
def Obligations.KeySkipsTestTheNamedKey : Prop :=
  ∀ (x : Reg) (s : State),
    ((s.getV x).toNat ≤ 0xF →
      (∃ t, exec (.skp x) s = .next t ∧ Frame [] s t ∧
        (s.keys.getD (s.getV x).toNat false = true → Skips s t) ∧
        (s.keys.getD (s.getV x).toNat false = false → FallsThrough s t)) ∧
      (∃ t, exec (.sknp x) s = .next t ∧ Frame [] s t ∧
        (s.keys.getD (s.getV x).toNat false = false → Skips s t) ∧
        (s.keys.getD (s.getV x).toNat false = true → FallsThrough s t))) ∧
    (0xF < (s.getV x).toNat →
      (∃ t, exec (.skp x) s = .next t ∧
        t.fault = some ⟨.keyOutOfRange, s.pc, some (BitVec.ofNat 16 (0xE09E + x.toNat * 256)),
          some (s.getV x).toNat⟩ ∧ t.pc = s.pc ∧ Frame [.fault] s t) ∧
      (∃ t, exec (.sknp x) s = .next t ∧
        t.fault = some ⟨.keyOutOfRange, s.pc, some (BitVec.ofNat 16 (0xE0A1 + x.toNat * 256)),
          some (s.getV x).toNat⟩ ∧ t.pc = s.pc ∧ Frame [.fault] s t))

/-- Fx0A with no key pressed writes nothing; else it stores the index of a pressed key, whichever the
free choice takes, and that key when only one is pressed (R181; log entry 3). -/
def Obligations.KeyWaitStoresAPressedKey : Prop :=
  ∀ (x : Reg) (s : State),
    ((∀ k, k < 16 → s.keys.getD k false = false) → exec (.ldVxK x) s = .next s) ∧
    ((∃ k, k < 16 ∧ s.keys.getD k false = true) →
      ∃ t, exec (.ldVxK x) s = .next t ∧ FallsThrough s t ∧
        (t.getV x).toNat < 16 ∧ s.keys.getD (t.getV x).toNat false = true ∧
        RegsKeptBut [x] s t ∧ Frame [.regs, .draws] s t)

/-! ## Family F (48_familyF.md) -/

/-- Fx07 reads DT as it was before the step's tick; Fx15 and Fx18 write the timers, which the same step's
tick then counts down (R180, R182, R183). -/
def Obligations.TimerTransfersCopy : Prop :=
  ∀ (x : Reg) (s : State),
    (∃ t, exec (.ldVxDt x) s = .next t ∧ FallsThrough s t ∧ t.getV x = s.dt ∧
      RegsKeptBut [x] s t ∧ Frame [.regs] s t) ∧
    (∃ t, exec (.ldDtVx x) s = .next t ∧ FallsThrough s t ∧ t.dt = s.getV x ∧
      t.tick.dt.toNat = (s.getV x).toNat - 1 ∧ Frame [.dt] s t) ∧
    (∃ t, exec (.ldStVx x) s = .next t ∧ FallsThrough s t ∧ t.st = s.getV x ∧
      t.tick.st.toNat = (s.getV x).toNat - 1 ∧
      ((s.getV x).toNat ≤ 1 → t.tick.eventStream = s.eventStream ++ [.silence]) ∧ Frame [.st] s t)

/-- Fx1E adds Vx to I modulo 65536; VF is 1 when the new I exceeds 0xFFF, else 0 (R184). -/
def Obligations.IndexAddSetsTheFlagFromTheNewI : Prop :=
  ∀ (x : Reg) (s : State), ∃ t, exec (.addI x) s = .next t ∧ FallsThrough s t ∧
    t.ireg.toNat = (s.ireg.toNat + (s.getV x).toNat) % 65536 ∧
    (0xFFF < t.ireg.toNat → (t.getV Reg.flag).toNat = 1) ∧
    (t.ireg.toNat ≤ 0xFFF → (t.getV Reg.flag).toNat = 0) ∧
    RegsKeptBut [Reg.flag] s t ∧ Frame [.regs, .ireg] s t

/-- Fx29 points I at Vx * 5 and Fx30 at Vx * 10, exact, with no masking of Vx (R185, R186). -/
def Obligations.GlyphAddressesAreExact : Prop :=
  ∀ (x : Reg) (s : State),
    (∃ t, exec (.ldF x) s = .next t ∧ FallsThrough s t ∧ t.ireg.toNat = (s.getV x).toNat * 5 ∧
      Frame [.ireg] s t) ∧
    (∃ t, exec (.ldHf x) s = .next t ∧ FallsThrough s t ∧ t.ireg.toNat = (s.getV x).toNat * 10 ∧
      Frame [.ireg] s t)

/-- Fx33 stores the hundreds, tens and units of Vx at I, I + 1 and I + 2 and no other byte; when I + 2
lies above 0xFFF it faults and stores nothing (R187; 20_memory.md R60). -/
def Obligations.BcdStoresThreeDigits : Prop :=
  ∀ (x : Reg) (s : State),
    (s.ireg.toNat + 2 ≤ 0xFFF → ∃ t, exec (.ldB x) s = .next t ∧ FallsThrough s t ∧
      (Memory.read t.mem s.ireg.toNat).toNat = (s.getV x).toNat / 100 ∧
      (Memory.read t.mem (s.ireg.toNat + 1)).toNat = (s.getV x).toNat / 10 % 10 ∧
      (Memory.read t.mem (s.ireg.toNat + 2)).toNat = (s.getV x).toNat % 10 ∧
      (∀ a, a < s.ireg.toNat ∨ s.ireg.toNat + 2 < a →
        Memory.read t.mem a = Memory.read s.mem a) ∧
      Frame [.mem] s t) ∧
    (0xFFF < s.ireg.toNat + 2 → ∃ t, exec (.ldB x) s = .next t ∧
      t.fault = some ⟨.memOutOfRange, s.pc, some (BitVec.ofNat 16 (0xF033 + x.toNat * 256)),
        some (max s.ireg.toNat 0x1000)⟩ ∧ t.pc = s.pc ∧ Frame [.fault] s t)

/-- Fx55 stores V0 to Vx at I to I + x and no other byte, I unchanged; when I + x lies above 0xFFF it
faults and stores nothing (R188; 20_memory.md R60). -/
def Obligations.BlockStoreWritesV0ToVx : Prop :=
  ∀ (x : Reg) (s : State),
    (s.ireg.toNat + x.toNat ≤ 0xFFF → ∃ t, exec (.storeRegs x) s = .next t ∧ FallsThrough s t ∧
      (∀ j : Reg, j.toNat ≤ x.toNat → Memory.read t.mem (s.ireg.toNat + j.toNat) = s.getV j) ∧
      (∀ a, a < s.ireg.toNat ∨ s.ireg.toNat + x.toNat < a →
        Memory.read t.mem a = Memory.read s.mem a) ∧
      Frame [.mem] s t) ∧
    (0xFFF < s.ireg.toNat + x.toNat → ∃ t, exec (.storeRegs x) s = .next t ∧
      t.fault = some ⟨.memOutOfRange, s.pc, some (BitVec.ofNat 16 (0xF055 + x.toNat * 256)),
        some (max s.ireg.toNat 0x1000)⟩ ∧ t.pc = s.pc ∧ Frame [.fault] s t)

/-- Fx65 loads V0 to Vx from I to I + x and no other register, I unchanged; when I + x lies above 0xFFF
it faults and loads nothing (R189; 20_memory.md R60). -/
def Obligations.BlockLoadReadsV0ToVx : Prop :=
  ∀ (x : Reg) (s : State),
    (s.ireg.toNat + x.toNat ≤ 0xFFF → ∃ t, exec (.loadRegs x) s = .next t ∧ FallsThrough s t ∧
      (∀ j : Reg, j.toNat ≤ x.toNat → t.getV j = Memory.read s.mem (s.ireg.toNat + j.toNat)) ∧
      (∀ j : Reg, x.toNat < j.toNat → t.getV j = s.getV j) ∧
      Frame [.regs] s t) ∧
    (0xFFF < s.ireg.toNat + x.toNat → ∃ t, exec (.loadRegs x) s = .next t ∧
      t.fault = some ⟨.memOutOfRange, s.pc, some (BitVec.ofNat 16 (0xF065 + x.toNat * 256)),
        some (max s.ireg.toNat 0x1000)⟩ ∧ t.pc = s.pc ∧ Frame [.fault] s t)

/-- What Fx55 stored, Fx65 at the same I loads back, over any registers (R188, R189). -/
def Obligations.BlockStoreThenLoadRestores : Prop :=
  ∀ (x : Reg) (s : State) (v : Vector Byte 16), s.ireg.toNat + x.toNat ≤ 0xFFF →
    ∃ t u, exec (.storeRegs x) s = .next t ∧
      exec (.loadRegs x) { t with vreg := v } = .next u ∧
      (∀ j : Reg, j.toNat ≤ x.toNat → u.getV j = s.getV j) ∧
      (∀ j : Reg, x.toNat < j.toNat → u.getV j = v.getD j.toNat 0)

/-- A store into code is what the next fetch of those bytes sees (20_memory.md R66). -/
def Obligations.StoredBytesAreFetchedAtOnce : Prop :=
  ∀ (x j k : Reg) (s t : State) (pc : Word), s.ireg.toNat + x.toNat ≤ 0xFFF →
    exec (.storeRegs x) s = .next t → j.toNat + 1 = k.toNat → k.toNat ≤ x.toNat →
    pc.toNat = s.ireg.toNat + j.toNat →
    State.fetch { t with pc := pc } = some (wordOfBytes (s.getV j) (s.getV k))
end

