-- ==== Sys2Proof/Laws/Decode.lean ====
section
/-! SUPPORT. The fields of a word that a format has put together (30_encoding.md R71, R72), and that
the operand types carry their own ranges. -/

namespace Sys2Proof

/-- A field inside the high part of an append. -/
theorem field_high {v w : Nat} (hi : BitVec v) (lo : BitVec w) (start len : Nat) (h : w ≤ start) :
    (hi ++ lo).extractLsb' start len = hi.extractLsb' (start - w) len :=
  BitVec.extractLsb'_append_eq_of_le h

/-- A field inside the low part of an append. -/
theorem field_low {v w : Nat} (hi : BitVec v) (lo : BitVec w) (start len : Nat)
    (h : start + len ≤ w) : (hi ++ lo).extractLsb' start len = lo.extractLsb' start len :=
  BitVec.extractLsb'_append_eq_of_add_le h

@[simp] theorem fieldFamily_formatNNN (f : BitVec 4) (nnn : Addr) :
    fieldFamily (formatNNN f nnn) = f :=
  (field_high f nnn 12 4 (by decide)).trans BitVec.extractLsb'_eq_self

@[simp] theorem fieldNNN_formatNNN (f : BitVec 4) (nnn : Addr) : fieldNNN (formatNNN f nnn) = nnn :=
  (field_low f nnn 0 12 (by decide)).trans BitVec.extractLsb'_eq_self

@[simp] theorem fieldFamily_formatXNN (f : BitVec 4) (x : Reg) (nn : Byte) :
    fieldFamily (formatXNN f x nn) = f :=
  ((field_high (f ++ x) nn 12 4 (by decide)).trans (field_high f x 4 4 (by decide))).trans
    BitVec.extractLsb'_eq_self

@[simp] theorem fieldX_formatXNN (f : BitVec 4) (x : Reg) (nn : Byte) :
    fieldX (formatXNN f x nn) = x :=
  ((field_high (f ++ x) nn 8 4 (by decide)).trans (field_low f x 0 4 (by decide))).trans
    BitVec.extractLsb'_eq_self

@[simp] theorem fieldNN_formatXNN (f : BitVec 4) (x : Reg) (nn : Byte) :
    fieldNN (formatXNN f x nn) = nn :=
  (field_low (f ++ x) nn 0 8 (by decide)).trans BitVec.extractLsb'_eq_self

@[simp] theorem fieldFamily_formatXYN (f : BitVec 4) (x y : Reg) (n : BitVec 4) :
    fieldFamily (formatXYN f x y n) = f :=
  ((field_high (f ++ x ++ y) n 12 4 (by decide)).trans ((field_high (f ++ x) y 8 4 (by decide)).trans
    (field_high f x 4 4 (by decide)))).trans BitVec.extractLsb'_eq_self

@[simp] theorem fieldX_formatXYN (f : BitVec 4) (x y : Reg) (n : BitVec 4) :
    fieldX (formatXYN f x y n) = x :=
  ((field_high (f ++ x ++ y) n 8 4 (by decide)).trans ((field_high (f ++ x) y 4 4 (by decide)).trans
    (field_low f x 0 4 (by decide)))).trans BitVec.extractLsb'_eq_self

@[simp] theorem fieldY_formatXYN (f : BitVec 4) (x y : Reg) (n : BitVec 4) :
    fieldY (formatXYN f x y n) = y :=
  ((field_high (f ++ x ++ y) n 4 4 (by decide)).trans (field_low (f ++ x) y 0 4 (by decide))).trans
    BitVec.extractLsb'_eq_self

@[simp] theorem fieldN_formatXYN (f : BitVec 4) (x y : Reg) (n : BitVec 4) :
    fieldN (formatXYN f x y n) = n :=
  (field_low (f ++ x ++ y) n 0 4 (by decide)).trans BitVec.extractLsb'_eq_self

/-! ## A word is its fields, and a format as a number -/

/-- One bit of two bit strings joined. -/
theorem getLsbD_join {v w : Nat} (hi : BitVec v) (lo : BitVec w) (i : Nat) :
    (hi ++ lo).getLsbD i = if i < w then lo.getLsbD i else hi.getLsbD (i - w) :=
  BitVec.getLsbD_append

/-- The four nibbles are the whole word (30_encoding.md R71). -/
theorem formatXYN_fields (op : Word) :
    formatXYN (fieldFamily op) (fieldX op) (fieldY op) (fieldN op) = op := by
  refine BitVec.eq_of_getLsbD_eq fun i hi => ?_
  refine (getLsbD_join (fieldFamily op ++ fieldX op ++ fieldY op) (fieldN op) i).trans ?_
  rw [getLsbD_join (fieldFamily op ++ fieldX op), getLsbD_join (fieldFamily op)]
  simp only [fieldFamily, fieldX, fieldY, fieldN, BitVec.getLsbD_extractLsb']
  interval_cases i <;> simp

/-- The family, x and the low byte are the whole word. -/
theorem formatXNN_fields (op : Word) :
    formatXNN (fieldFamily op) (fieldX op) (fieldNN op) = op := by
  refine BitVec.eq_of_getLsbD_eq fun i hi => ?_
  refine (getLsbD_join (fieldFamily op ++ fieldX op) (fieldNN op) i).trans ?_
  rw [getLsbD_join (fieldFamily op)]
  simp only [fieldFamily, fieldX, fieldNN, BitVec.getLsbD_extractLsb']
  interval_cases i <;> simp

/-- The family and the low twelve bits are the whole word. -/
theorem formatNNN_fields (op : Word) : formatNNN (fieldFamily op) (fieldNNN op) = op := by
  refine BitVec.eq_of_getLsbD_eq fun i hi => ?_
  refine (getLsbD_join (fieldFamily op) (fieldNNN op) i).trans ?_
  simp only [fieldFamily, fieldNNN, BitVec.getLsbD_extractLsb']
  interval_cases i <;> simp

/-- Two bit strings joined, as a number. -/
theorem toNat_append_add {v w : Nat} (hi : BitVec v) (lo : BitVec w) :
    (hi ++ lo).toNat = hi.toNat * 2 ^ w + lo.toNat := by
  rw [BitVec.toNat_append, ← Nat.shiftLeft_add_eq_or_of_lt lo.isLt, Nat.shiftLeft_eq]

theorem formatNNN_toNat (f : BitVec 4) (nnn : Addr) :
    (formatNNN f nnn).toNat = f.toNat * 4096 + nnn.toNat := toNat_append_add f nnn

theorem formatXNN_toNat (f : BitVec 4) (x : Reg) (nn : Byte) :
    (formatXNN f x nn).toNat = f.toNat * 4096 + x.toNat * 256 + nn.toNat := by
  refine (toNat_append_add (f ++ x) nn).trans ?_
  rw [toNat_append_add]; omega

theorem formatXYN_toNat (f : BitVec 4) (x y : Reg) (n : BitVec 4) :
    (formatXYN f x y n).toNat = f.toNat * 4096 + x.toNat * 256 + y.toNat * 16 + n.toNat := by
  refine (toNat_append_add (f ++ x ++ y) n).trans ?_
  rw [toNat_append_add, toNat_append_add]; omega

/-! ## The fields as numbers -/

theorem fieldFamily_toNat (op : Word) : (fieldFamily op).toNat = op.toNat / 4096 := by
  have := op.isLt
  simp only [fieldFamily, BitVec.extractLsb'_toNat, Nat.shiftRight_eq_div_pow]; omega

theorem fieldN_toNat (op : Word) : (fieldN op).toNat = op.toNat % 16 := by
  simp [fieldN, BitVec.extractLsb'_toNat]

theorem fieldNN_toNat (op : Word) : (fieldNN op).toNat = op.toNat % 256 := by
  simp [fieldNN, BitVec.extractLsb'_toNat]

/-- Every instruction is well-formed: the operand types carry the ranges the checks ask for. -/
theorem Laws.wellFormed_all (i : Instr) : i.wellFormed = true := by
  cases i <;>
    simp [Instr.wellFormed, regInRange, addrInRange, immInRange, countInRange] <;> omega

end Sys2Proof
end

