-- ==== Sys2Proof/Laws/Vectors.lean ====
section
/-! SUPPORT. Reading an entry of a vector with a default, after a write. -/

namespace Sys2Proof.Machine

theorem vector_getD_eq {α : Type} {n : Nat} (v : Vector α n) (j : Nat) (d : α) :
    v.getD j d = v[j]?.getD d := by
  simp [Vector.getD, Array.getD_eq_getD_getElem?]

theorem vector_getD_of_lt {α : Type} {n : Nat} (v : Vector α n) {j : Nat} (d : α) (h : j < n) :
    v.getD j d = v[j] := by
  simp [vector_getD_eq, h]

theorem vector_getD_setIfInBounds {α : Type} {n : Nat} (v : Vector α n) (k j : Nat) (x d : α) :
    (v.setIfInBounds k x).getD j d = if k = j ∧ j < n then x else v.getD j d := by
  rw [vector_getD_eq, vector_getD_eq, Vector.getElem?_setIfInBounds]
  by_cases hk : k = j
  · subst hk
    by_cases hj : k < n <;> simp [hj]
  · simp [hk]

end Sys2Proof.Machine
end

