-- ==== Sys2Proof/Laws/Draw.lean ====
section
/-! SUPPORT. Planes and the sprite draw, cell by cell: a toggle changes one cell, a row of pixels and a
sprite change exactly the cells a 1 bit lands on, and the collision flag says whether one of those
was on (46_draw_D.md R160 to R162). -/

namespace Sys2Proof.Machine

variable {w h : Nat}

/-- A cleared plane has every cell off. -/
@[simp] theorem Plane.cell_clear (c r : Nat) : (Plane.clear w h).cell c r = false := by
  simp only [Plane.cell, Plane.clear, vector_getD_eq]
  by_cases hr : r < h <;> simp [hr]

/-- A toggle complements its own cell and no other. -/
theorem Plane.cell_toggle (p : Plane w h) {c r c' r' : Nat} (hc : c < w) (hr : r < h) :
    (p.toggle c r).cell c' r' = if c' = c ∧ r' = r then !p.cell c' r' else p.cell c' r' := by
  simp only [Plane.cell, Plane.toggle, vector_getD_setIfInBounds]
  by_cases h1 : r = r'
  · subst h1
    by_cases h2 : c' = c
    · subst h2; simp [hr, hc]
    · simp [hr, h2, BitVec.getLsbD_twoPow, Ne.symm h2]
  · simp [h1, Ne.symm h1]

/-- One pixel: the cell at the wrapped coordinates, when the bit is 1. -/
theorem Canvas.cell_pixel (d : Canvas w h) {x y c r : Nat} (bit : Bool) (hw : 0 < w) (hh : 0 < h) :
    (d.pixel x y bit).plane.cell c r =
      if bit = true ∧ c = x % w ∧ r = y % h then !d.plane.cell c r else d.plane.cell c r := by
  cases bit with
  | false => simp [Canvas.pixel]
  | true => simp [Canvas.pixel, Plane.cell_toggle _ (Nat.mod_lt x hw) (Nat.mod_lt y hh)]

/-- Two columns less than a plane's width apart are different cells. -/
theorem mod_ne_of_close {w x a b : Nat} (hab : a < b) (hb : b < a + w) : (x + a) % w ≠ (x + b) % w := by
  intro e
  have h1 : w ∣ (x + b) - (x + a) := (Nat.modEq_iff_dvd' (by omega)).mp e
  have h2 := Nat.le_of_dvd (by omega) h1
  omega

/-- Some 1 bit among the first `k` of a row lands on the cell. -/
def RowCovers (w h x y : Nat) (row : Byte) (k c r : Nat) : Prop :=
  ∃ b, b < k ∧ row.getLsbD (7 - b) = true ∧ c = (x + b) % w ∧ r = y % h

/-- The pixels of a row toggle exactly the cells a 1 bit lands on. -/
theorem Canvas.cell_rowPixels (d : Canvas w h) (x y : Nat) (row : Byte) {k c r : Nat} (hk : k ≤ w)
    (hw : 0 < w) (hh : 0 < h) :
    (RowCovers w h x y row k c r → (d.rowPixels x y row k).plane.cell c r = !d.plane.cell c r) ∧
    (¬ RowCovers w h x y row k c r → (d.rowPixels x y row k).plane.cell c r = d.plane.cell c r) := by
  induction k with
  | zero => exact ⟨fun ⟨b, hb, _⟩ => by omega, fun _ => rfl⟩
  | succ k ih =>
    have ih := ih (by omega)
    rw [Canvas.rowPixels, Canvas.cell_pixel _ _ hw hh]
    by_cases hnew : row.getLsbD (7 - k) = true ∧ c = (x + k) % w ∧ r = y % h
    · have hold : ¬ RowCovers w h x y row k c r := fun ⟨b, hb, _, hc, _⟩ =>
        mod_ne_of_close (w := w) hb (by omega) (hc.symm.trans hnew.2.1)
      have hcov : RowCovers w h x y row (k + 1) c r := ⟨k, by omega, hnew⟩
      simp only [if_pos hnew, ih.2 hold, hcov, not_true, true_imp_iff, false_imp_iff, and_true]
    · have hiff : RowCovers w h x y row (k + 1) c r ↔ RowCovers w h x y row k c r := by
        constructor
        · rintro ⟨b, hb, rest⟩
          rcases Nat.lt_succ_iff_lt_or_eq.mp hb with hb | rfl
          · exact ⟨b, hb, rest⟩
          · exact absurd rest hnew
        · rintro ⟨b, hb, rest⟩; exact ⟨b, by omega, rest⟩
      simp only [if_neg hnew, hiff]
      exact ih

/-- The collision of a row: a 1 bit landed on a cell that was on. -/
theorem Canvas.collided_rowPixels (d : Canvas w h) (x y : Nat) (row : Byte) {k : Nat} (hk : k ≤ w)
    (hw : 0 < w) (hh : 0 < h) :
    (d.rowPixels x y row k).collided = true ↔
      d.collided = true ∨ ∃ c r, RowCovers w h x y row k c r ∧ d.plane.cell c r = true := by
  induction k with
  | zero => simp [Canvas.rowPixels, RowCovers]
  | succ k ih =>
    have ih := ih (by omega)
    have hold : ¬ RowCovers w h x y row k ((x + k) % w) (y % h) := fun ⟨b, hb, _, hc, _⟩ =>
      mod_ne_of_close (w := w) hb (by omega) hc.symm
    have hcell := (d.cell_rowPixels x y row (k := k) (by omega) hw hh).2 hold
    have hsplit : (∃ c r, RowCovers w h x y row (k + 1) c r ∧ d.plane.cell c r = true) ↔
        (∃ c r, RowCovers w h x y row k c r ∧ d.plane.cell c r = true) ∨
          (row.getLsbD (7 - k) = true ∧ d.plane.cell ((x + k) % w) (y % h) = true) := by
      constructor
      · rintro ⟨c, r, ⟨b, hb, hbit, hc, hr⟩, hon⟩
        rcases Nat.lt_succ_iff_lt_or_eq.mp hb with hb | rfl
        · exact .inl ⟨c, r, ⟨b, hb, hbit, hc, hr⟩, hon⟩
        · subst hc hr; exact .inr ⟨hbit, hon⟩
      · rintro (⟨c, r, ⟨b, hb, rest⟩, hon⟩ | ⟨hbit, hon⟩)
        · exact ⟨c, r, ⟨b, by omega, rest⟩, hon⟩
        · exact ⟨_, _, ⟨k, by omega, hbit, rfl, rfl⟩, hon⟩
    rw [hsplit, Canvas.rowPixels]
    cases hbit : row.getLsbD (7 - k) with
    | false => simp [Canvas.pixel, ih]
    | true => simp [Canvas.pixel, ih, hcell, or_assoc]

/-- Some 1 bit of a sprite at `(x, y)` lands on the cell. -/
def SpriteRowsCover (w h x y : Nat) (sprite : List Byte) (c r : Nat) : Prop :=
  ∃ dr, dr < sprite.length ∧ RowCovers w h x (y + dr) (sprite.getD dr 0) 8 c r

theorem spriteRowsCover_cons (x y : Nat) (row : Byte) (rest : List Byte) (c r : Nat) :
    SpriteRowsCover w h x y (row :: rest) c r ↔
      RowCovers w h x y row 8 c r ∨ SpriteRowsCover w h x (y + 1) rest c r := by
  constructor
  · rintro ⟨dr, hdr, hcov⟩
    cases dr with
    | zero => exact .inl (by simpa using hcov)
    | succ dr =>
      refine .inr ⟨dr, by simpa using hdr, ?_⟩
      simpa [Nat.add_assoc, Nat.add_comm 1 dr] using hcov
  · rintro (hcov | ⟨dr, hdr, hcov⟩)
    · exact ⟨0, by simp, by simpa using hcov⟩
    · refine ⟨dr + 1, by simpa using hdr, ?_⟩
      simpa [Nat.add_assoc, Nat.add_comm 1 dr] using hcov

/-- A cell a row covers is covered by no later row of a sprite no taller than the plane. -/
theorem row_excludes_rest {x y : Nat} {row : Byte} {rest : List Byte} {c r : Nat}
    (hlen : rest.length < h) (hcov : RowCovers w h x y row 8 c r) :
    ¬ SpriteRowsCover w h x (y + 1) rest c r := by
  rintro ⟨dr, hdr, b, _, _, _, hr⟩
  obtain ⟨_, _, _, _, hr'⟩ := hcov
  have : (y + 0) % h ≠ (y + (1 + dr)) % h := mod_ne_of_close (by omega) (by omega)
  exact this (by rw [Nat.add_zero, ← hr', hr, Nat.add_assoc])

/-- A sprite toggles exactly the cells one of its 1 bits lands on. -/
theorem Canvas.cell_rows (sprite : List Byte) (d : Canvas w h) (x y : Nat) {c r : Nat} (hw : 8 ≤ w)
    (hlen : sprite.length ≤ h) (hh : 0 < h) :
    (SpriteRowsCover w h x y sprite c r → (d.rows x y sprite).plane.cell c r = !d.plane.cell c r) ∧
    (¬ SpriteRowsCover w h x y sprite c r → (d.rows x y sprite).plane.cell c r = d.plane.cell c r) := by
  induction sprite generalizing d y with
  | nil => exact ⟨fun ⟨_, hdr, _⟩ => by simp at hdr, fun _ => rfl⟩
  | cons row rest ih =>
    have hlen' : rest.length < h := by simpa using hlen
    have hrow := d.cell_rowPixels x y row (k := 8) (c := c) (r := r) hw (by omega) hh
    have ih := ih (d.rowPixels x y row 8) (y + 1) (by omega)
    rw [Canvas.rows, spriteRowsCover_cons]
    by_cases hcov : RowCovers w h x y row 8 c r
    · have hno := row_excludes_rest hlen' hcov
      simp only [hcov, true_or, not_true, true_imp_iff, false_imp_iff, and_true]
      rw [ih.2 hno, hrow.1 hcov]
    · simp only [hcov, false_or]
      rw [← hrow.2 hcov]; exact ih

/-- The collision of a sprite: one of its 1 bits landed on a cell that was on. -/
theorem Canvas.collided_rows (sprite : List Byte) (d : Canvas w h) (x y : Nat) (hw : 8 ≤ w)
    (hlen : sprite.length ≤ h) (hh : 0 < h) :
    (d.rows x y sprite).collided = true ↔
      d.collided = true ∨ ∃ c r, SpriteRowsCover w h x y sprite c r ∧ d.plane.cell c r = true := by
  induction sprite generalizing d y with
  | nil => simp [Canvas.rows, SpriteRowsCover]
  | cons row rest ih =>
    have hlen' : rest.length < h := by simpa using hlen
    have hrow := fun c r =>
      (d.cell_rowPixels x y row (k := 8) (c := c) (r := r) hw (by omega) hh).2
    rw [Canvas.rows, ih _ _ (by omega), d.collided_rowPixels x y row hw (by omega) hh, or_assoc]
    refine or_congr_right ?_
    constructor
    · rintro (⟨c, r, hcov, hon⟩ | ⟨c, r, hcov, hon⟩)
      · exact ⟨c, r, (spriteRowsCover_cons ..).mpr (.inl hcov), hon⟩
      · refine ⟨c, r, (spriteRowsCover_cons ..).mpr (.inr hcov), ?_⟩
        rwa [hrow c r fun h' => row_excludes_rest hlen' h' hcov] at hon
    · rintro ⟨c, r, hcov, hon⟩
      by_cases h' : RowCovers w h x y row 8 c r
      · exact .inl ⟨c, r, h', hon⟩
      · refine .inr ⟨c, r, ((spriteRowsCover_cons ..).mp hcov).resolve_left h', ?_⟩
        rwa [hrow c r h']

/-- The sprite's bytes are the n bytes at I. -/
theorem Memory.length_readBytes (m : Memory) (a n : Nat) : (Memory.readBytes m a n).length = n := by
  induction n generalizing a with
  | zero => rfl
  | succ n ih => simp [Memory.readBytes, ih]

theorem Memory.getD_readBytes (m : Memory) {a n k : Nat} (hk : k < n) :
    (Memory.readBytes m a n).getD k 0 = Memory.read m (a + k) := by
  induction n generalizing a k with
  | zero => omega
  | succ n ih =>
    cases k with
    | zero => simp [Memory.readBytes]
    | succ k =>
      have := ih (a := a + 1) (k := k) (by omega)
      simpa [Memory.readBytes, Nat.add_assoc, Nat.add_comm 1 k] using this

end Sys2Proof.Machine
end

