-- ==== Sys2Proof/Laws/Memory.lean ====
section
/-! SUPPORT. Memory: a read after a write, the canonical form that every memory operation keeps, and
what the block operations do. -/

namespace Sys2Proof.Machine

/-! ## Lookup after each list operation -/

theorem Memory.lookup_insert_same (m : Memory) (a : Nat) (v : Byte) :
    Memory.lookup (Memory.insert m a v) a = some v := by
  induction m with
  | nil => simp [Memory.insert, Memory.lookup]
  | cons c rest ih =>
    obtain ⟨b, w⟩ := c
    simp only [Memory.insert]
    split
    · simp [Memory.lookup]
    · split
      · simp [Memory.lookup]
      · have : b ≠ a := by omega
        simp [Memory.lookup, this, ih]

theorem Memory.lookup_insert_ne (m : Memory) {a a' : Nat} (v : Byte) (h : a' ≠ a) :
    Memory.lookup (Memory.insert m a v) a' = Memory.lookup m a' := by
  induction m with
  | nil => simp [Memory.insert, Memory.lookup, h.symm]
  | cons c rest ih =>
    obtain ⟨b, w⟩ := c
    simp only [Memory.insert]
    split
    · simp [Memory.lookup, h.symm]
    · split
      · next e => subst e; simp [Memory.lookup, h.symm]
      · simp [Memory.lookup, ih]

theorem Memory.lookup_erase_same (m : Memory) (a : Nat) : Memory.lookup (Memory.erase m a) a = none := by
  induction m with
  | nil => rfl
  | cons c rest ih =>
    obtain ⟨b, w⟩ := c
    by_cases h : b = a <;> simp_all [Memory.erase, Memory.lookup]

theorem Memory.lookup_erase_ne (m : Memory) {a a' : Nat} (h : a' ≠ a) :
    Memory.lookup (Memory.erase m a) a' = Memory.lookup m a' := by
  induction m with
  | nil => rfl
  | cons c rest ih =>
    obtain ⟨b, w⟩ := c
    by_cases hb : b = a
    · subst hb; simp_all [Memory.erase, Memory.lookup, h.symm]
    · simp_all [Memory.erase, Memory.lookup]

/-! ## Read after write -/

/-- A byte of memory reads as written. -/
theorem Memory.read_write_same (m : Memory) {a : Nat} (v : Byte) (h : a < Config.memSize) :
    Memory.read (Memory.write m a v) a = v := by
  simp only [Memory.write, h, if_true]
  split
  · next e => simp [Memory.read, Memory.lookup_erase_same, e]
  · simp [Memory.read, Memory.lookup_insert_same]

/-- A write leaves every other byte alone. -/
theorem Memory.read_write_ne (m : Memory) {a a' : Nat} (v : Byte) (h : a' ≠ a) :
    Memory.read (Memory.write m a v) a' = Memory.read m a' := by
  simp only [Memory.write]
  split
  · split
    · simp [Memory.read, Memory.lookup_erase_ne m h]
    · simp [Memory.read, Memory.lookup_insert_ne m v h]
  · rfl

/-! ## The canonical form -/

theorem Memory.wfFrom_mono {low low' : Nat} {m : Memory} (h : low' ≤ low)
    (hm : Memory.wfFrom low m = true) : Memory.wfFrom low' m = true := by
  cases m with
  | nil => rfl
  | cons c rest =>
    obtain ⟨a, v⟩ := c
    simp only [Memory.wfFrom, Bool.and_eq_true, decide_eq_true_eq] at hm ⊢
    exact ⟨⟨⟨by omega, hm.1.1.2⟩, hm.1.2⟩, hm.2⟩

theorem Memory.wfFrom_insert {low a : Nat} {v : Byte} (ha : a < Config.memSize) (hl : low ≤ a)
    (hv : v ≠ Memory.unlisted a) {m : Memory} (hm : Memory.wfFrom low m = true) :
    Memory.wfFrom low (Memory.insert m a v) = true := by
  induction m generalizing low with
  | nil => simp [Memory.insert, Memory.wfFrom, ha, hl, hv]
  | cons c rest ih =>
    obtain ⟨b, w⟩ := c
    simp only [Memory.wfFrom, Bool.and_eq_true, decide_eq_true_eq] at hm
    simp only [Memory.insert]
    split
    · next hlt => simp [Memory.wfFrom, ha, hl, hv, hm.1.1.2, hm.1.2, hm.2]; omega
    · split
      · next e => subst e; simp [Memory.wfFrom, ha, hl, hv, hm.2]
      · next h1 h2 =>
        simp only [Memory.wfFrom, Bool.and_eq_true, decide_eq_true_eq]
        exact ⟨⟨⟨hm.1.1.1, hm.1.1.2⟩, hm.1.2⟩, ih (by omega) hm.2⟩

theorem Memory.wfFrom_erase {low a : Nat} {m : Memory} (hm : Memory.wfFrom low m = true) :
    Memory.wfFrom low (Memory.erase m a) = true := by
  induction m generalizing low with
  | nil => rfl
  | cons c rest ih =>
    obtain ⟨b, w⟩ := c
    simp only [Memory.wfFrom, Bool.and_eq_true, decide_eq_true_eq] at hm
    have hrest := ih hm.2
    by_cases h : b = a
    · subst h
      simpa [Memory.erase] using Memory.wfFrom_mono (by omega) hrest
    · have : Memory.erase ((b, w) :: rest) a = (b, w) :: Memory.erase rest a := by
        simp [Memory.erase, h]
      simp only [this, Memory.wfFrom, Bool.and_eq_true, decide_eq_true_eq]
      exact ⟨hm.1, hrest⟩

/-- A write keeps the canonical form. -/
theorem Memory.wf_write {m : Memory} (a : Nat) (v : Byte) (hm : m.wf = true) :
    (Memory.write m a v).wf = true := by
  simp only [Memory.write, Memory.wf] at *
  split
  · split
    · exact Memory.wfFrom_erase hm
    · next h1 h2 => exact Memory.wfFrom_insert h1 (by omega) h2 hm
  · exact hm

/-- Bytes written at rising addresses keep the canonical form. -/
theorem Memory.wf_writeBytes (bytes : List Byte) {m : Memory} (a : Nat) (hm : m.wf = true) :
    (Memory.writeBytes m a bytes).wf = true := by
  induction bytes generalizing m a with
  | nil => exact hm
  | cons v rest ih => exact ih (a + 1) (Memory.wf_write a v hm)

/-- The block store keeps the canonical form. -/
theorem Memory.wf_storeBlock (v : Vector Byte 16) {m : Memory} (a k : Nat) (hm : m.wf = true) :
    (storeBlock v m a k).wf = true := by
  induction k with
  | zero => exact hm
  | succ k ih => exact Memory.wf_write _ _ ih

/-! ## Blocks -/

/-- Bytes written at rising addresses leave every address outside the block alone. -/
theorem Memory.read_writeBytes_outside (bytes : List Byte) (m : Memory) {a a' : Nat}
    (h : a' < a ∨ a + bytes.length ≤ a') :
    Memory.read (Memory.writeBytes m a bytes) a' = Memory.read m a' := by
  induction bytes generalizing m a with
  | nil => rfl
  | cons v rest ih =>
    have hl : (v :: rest).length = rest.length + 1 := rfl
    rw [Memory.writeBytes, ih _ (by omega), Memory.read_write_ne m v (by omega)]

/-- Bytes written at rising addresses read back, each at its place. -/
theorem Memory.read_writeBytes_inside (bytes : List Byte) (m : Memory) {a k : Nat}
    (hk : k < bytes.length) (ha : a + k < Config.memSize) :
    Memory.read (Memory.writeBytes m a bytes) (a + k) = bytes.getD k 0 := by
  induction bytes generalizing m a k with
  | nil => simp at hk
  | cons v rest ih =>
    cases k with
    | zero =>
      rw [Memory.writeBytes, Memory.read_writeBytes_outside rest _ (by omega)]
      simp only [Nat.add_zero] at ha ⊢
      simp [Memory.read_write_same m v ha]
    | succ k =>
      have hk' : k < rest.length := by simpa using hk
      have := ih (Memory.write m a v) (a := a + 1) hk' (by omega)
      rw [Memory.writeBytes, show a + (k + 1) = a + 1 + k by omega, this]
      simp

/-- The default FONT is 80 bytes. -/
theorem font_length : font.length = 80 := rfl

/-- What construction with a FONT leaves in memory, byte by byte (70_reset_and_hazards.md R230). -/
theorem Memory.read_construct (fontBytes : Vector Byte 80) (a : Nat) :
    Memory.read (State.construct fontBytes).mem a = if h : a < 80 then fontBytes[a] else 0 := by
  have hmem : (State.construct fontBytes).mem = Memory.writeBytes [] 0 fontBytes.toList := rfl
  have hlen : fontBytes.toList.length = 80 := fontBytes.length_toList
  rw [hmem]
  split
  · next h =>
    have hsize : 0 + a < Config.memSize := by simp only [Config.memSize]; omega
    have hread := Memory.read_writeBytes_inside fontBytes.toList [] (by omega) hsize
    rw [Nat.zero_add] at hread
    rw [hread, List.getD_eq_getElem _ _ (by omega), Vector.getElem_toList]
  · next h =>
    rw [Memory.read_writeBytes_outside fontBytes.toList [] (by omega)]
    simp only [Memory.read, Memory.lookup, Option.getD_none, Memory.unlisted]
    exact List.getD_eq_default _ _ (by rw [font_length]; omega)

/-- The block store leaves every address outside the block alone. -/
theorem Memory.read_storeBlock_outside (v : Vector Byte 16) (m : Memory) {a k a' : Nat}
    (h : a' < a ∨ a + k ≤ a') : Memory.read (storeBlock v m a k) a' = Memory.read m a' := by
  induction k with
  | zero => rfl
  | succ k ih => rw [storeBlock, Memory.read_write_ne _ _ (by omega), ih (by omega)]

/-- The block store puts V[j] at the j-th address. -/
theorem Memory.read_storeBlock_inside (v : Vector Byte 16) (m : Memory) {a k j : Nat} (hj : j < k)
    (ha : a + k ≤ Config.memSize) : Memory.read (storeBlock v m a k) (a + j) = v.getD j 0 := by
  induction k with
  | zero => omega
  | succ k ih =>
    rw [storeBlock]
    by_cases h : j = k
    · subst h; exact Memory.read_write_same _ _ (by omega)
    · rw [Memory.read_write_ne _ _ (by omega), ih (by omega) (by omega)]

/-- The block load fills the first registers from memory and keeps the others. -/
theorem getD_loadBlock (v : Vector Byte 16) (m : Memory) (a : Nat) {k j : Nat} (hk : k ≤ 16)
    (hj : j < 16) :
    (loadBlock v m a k).getD j 0 = if j < k then Memory.read m (a + j) else v.getD j 0 := by
  induction k with
  | zero => simp [loadBlock]
  | succ k ih =>
    rw [loadBlock, vector_getD_setIfInBounds, ih (by omega)]
    by_cases h : k = j
    · subst h; simp [hj]
    · by_cases h2 : j < k
      · simp [h, h2, show j < k + 1 by omega]
      · simp [h, h2, show ¬ j < k + 1 by omega]

end Sys2Proof.Machine
end

