-- ==== Sys2Proof/Laws/State.lean ====
section
/-! SUPPORT. One lemma per field per update of the state, true by unfolding once, so that no later
proof unfolds a record update; and what a register read sees after each update. -/

namespace Sys2Proof.Machine

@[simp] theorem State.setV_pc (s : State) (x : Reg) (v : Byte) : (s.setV x v).pc = s.pc := rfl
@[simp] theorem State.setV_vreg (s : State) (x : Reg) (v : Byte) : (s.setV x v).vreg = s.vreg.set x.toNat v x.isLt := rfl
@[simp] theorem State.setV_ireg (s : State) (x : Reg) (v : Byte) : (s.setV x v).ireg = s.ireg := rfl
@[simp] theorem State.setV_dt (s : State) (x : Reg) (v : Byte) : (s.setV x v).dt = s.dt := rfl
@[simp] theorem State.setV_st (s : State) (x : Reg) (v : Byte) : (s.setV x v).st = s.st := rfl
@[simp] theorem State.setV_stack (s : State) (x : Reg) (v : Byte) : (s.setV x v).stack = s.stack := rfl
@[simp] theorem State.setV_sp (s : State) (x : Reg) (v : Byte) : (s.setV x v).sp = s.sp := rfl
@[simp] theorem State.setV_mem (s : State) (x : Reg) (v : Byte) : (s.setV x v).mem = s.mem := rfl
@[simp] theorem State.setV_keys (s : State) (x : Reg) (v : Byte) : (s.setV x v).keys = s.keys := rfl
@[simp] theorem State.setV_mode (s : State) (x : Reg) (v : Byte) : (s.setV x v).mode = s.mode := rfl
@[simp] theorem State.setV_pstd (s : State) (x : Reg) (v : Byte) : (s.setV x v).pstd = s.pstd := rfl
@[simp] theorem State.setV_pext (s : State) (x : Reg) (v : Byte) : (s.setV x v).pext = s.pext := rfl
@[simp] theorem State.setV_drawPending (s : State) (x : Reg) (v : Byte) : (s.setV x v).drawPending = s.drawPending := rfl
@[simp] theorem State.setV_running (s : State) (x : Reg) (v : Byte) : (s.setV x v).running = s.running := rfl
@[simp] theorem State.setV_fault (s : State) (x : Reg) (v : Byte) : (s.setV x v).fault = s.fault := rfl
@[simp] theorem State.setV_events (s : State) (x : Reg) (v : Byte) : (s.setV x v).events = s.events := rfl
@[simp] theorem State.setV_draws (s : State) (x : Reg) (v : Byte) : (s.setV x v).draws = s.draws := rfl

@[simp] theorem State.setFlag_pc (s : State) (b : Bool) : (s.setFlag b).pc = s.pc := rfl
@[simp] theorem State.setFlag_vreg (s : State) (b : Bool) : (s.setFlag b).vreg = s.vreg.set 15 (flagByte b) := rfl
@[simp] theorem State.setFlag_ireg (s : State) (b : Bool) : (s.setFlag b).ireg = s.ireg := rfl
@[simp] theorem State.setFlag_dt (s : State) (b : Bool) : (s.setFlag b).dt = s.dt := rfl
@[simp] theorem State.setFlag_st (s : State) (b : Bool) : (s.setFlag b).st = s.st := rfl
@[simp] theorem State.setFlag_stack (s : State) (b : Bool) : (s.setFlag b).stack = s.stack := rfl
@[simp] theorem State.setFlag_sp (s : State) (b : Bool) : (s.setFlag b).sp = s.sp := rfl
@[simp] theorem State.setFlag_mem (s : State) (b : Bool) : (s.setFlag b).mem = s.mem := rfl
@[simp] theorem State.setFlag_keys (s : State) (b : Bool) : (s.setFlag b).keys = s.keys := rfl
@[simp] theorem State.setFlag_mode (s : State) (b : Bool) : (s.setFlag b).mode = s.mode := rfl
@[simp] theorem State.setFlag_pstd (s : State) (b : Bool) : (s.setFlag b).pstd = s.pstd := rfl
@[simp] theorem State.setFlag_pext (s : State) (b : Bool) : (s.setFlag b).pext = s.pext := rfl
@[simp] theorem State.setFlag_drawPending (s : State) (b : Bool) : (s.setFlag b).drawPending = s.drawPending := rfl
@[simp] theorem State.setFlag_running (s : State) (b : Bool) : (s.setFlag b).running = s.running := rfl
@[simp] theorem State.setFlag_fault (s : State) (b : Bool) : (s.setFlag b).fault = s.fault := rfl
@[simp] theorem State.setFlag_events (s : State) (b : Bool) : (s.setFlag b).events = s.events := rfl
@[simp] theorem State.setFlag_draws (s : State) (b : Bool) : (s.setFlag b).draws = s.draws := rfl

@[simp] theorem State.setI_pc (s : State) (v : Word) : (s.setI v).pc = s.pc := rfl
@[simp] theorem State.setI_vreg (s : State) (v : Word) : (s.setI v).vreg = s.vreg := rfl
@[simp] theorem State.setI_ireg (s : State) (v : Word) : (s.setI v).ireg = v := rfl
@[simp] theorem State.setI_dt (s : State) (v : Word) : (s.setI v).dt = s.dt := rfl
@[simp] theorem State.setI_st (s : State) (v : Word) : (s.setI v).st = s.st := rfl
@[simp] theorem State.setI_stack (s : State) (v : Word) : (s.setI v).stack = s.stack := rfl
@[simp] theorem State.setI_sp (s : State) (v : Word) : (s.setI v).sp = s.sp := rfl
@[simp] theorem State.setI_mem (s : State) (v : Word) : (s.setI v).mem = s.mem := rfl
@[simp] theorem State.setI_keys (s : State) (v : Word) : (s.setI v).keys = s.keys := rfl
@[simp] theorem State.setI_mode (s : State) (v : Word) : (s.setI v).mode = s.mode := rfl
@[simp] theorem State.setI_pstd (s : State) (v : Word) : (s.setI v).pstd = s.pstd := rfl
@[simp] theorem State.setI_pext (s : State) (v : Word) : (s.setI v).pext = s.pext := rfl
@[simp] theorem State.setI_drawPending (s : State) (v : Word) : (s.setI v).drawPending = s.drawPending := rfl
@[simp] theorem State.setI_running (s : State) (v : Word) : (s.setI v).running = s.running := rfl
@[simp] theorem State.setI_fault (s : State) (v : Word) : (s.setI v).fault = s.fault := rfl
@[simp] theorem State.setI_events (s : State) (v : Word) : (s.setI v).events = s.events := rfl
@[simp] theorem State.setI_draws (s : State) (v : Word) : (s.setI v).draws = s.draws := rfl
@[simp] theorem State.setI_getV (s : State) (v : Word) (j : Reg) : (s.setI v).getV j = s.getV j := rfl

@[simp] theorem State.setDt_pc (s : State) (v : Byte) : (s.setDt v).pc = s.pc := rfl
@[simp] theorem State.setDt_vreg (s : State) (v : Byte) : (s.setDt v).vreg = s.vreg := rfl
@[simp] theorem State.setDt_ireg (s : State) (v : Byte) : (s.setDt v).ireg = s.ireg := rfl
@[simp] theorem State.setDt_dt (s : State) (v : Byte) : (s.setDt v).dt = v := rfl
@[simp] theorem State.setDt_st (s : State) (v : Byte) : (s.setDt v).st = s.st := rfl
@[simp] theorem State.setDt_stack (s : State) (v : Byte) : (s.setDt v).stack = s.stack := rfl
@[simp] theorem State.setDt_sp (s : State) (v : Byte) : (s.setDt v).sp = s.sp := rfl
@[simp] theorem State.setDt_mem (s : State) (v : Byte) : (s.setDt v).mem = s.mem := rfl
@[simp] theorem State.setDt_keys (s : State) (v : Byte) : (s.setDt v).keys = s.keys := rfl
@[simp] theorem State.setDt_mode (s : State) (v : Byte) : (s.setDt v).mode = s.mode := rfl
@[simp] theorem State.setDt_pstd (s : State) (v : Byte) : (s.setDt v).pstd = s.pstd := rfl
@[simp] theorem State.setDt_pext (s : State) (v : Byte) : (s.setDt v).pext = s.pext := rfl
@[simp] theorem State.setDt_drawPending (s : State) (v : Byte) : (s.setDt v).drawPending = s.drawPending := rfl
@[simp] theorem State.setDt_running (s : State) (v : Byte) : (s.setDt v).running = s.running := rfl
@[simp] theorem State.setDt_fault (s : State) (v : Byte) : (s.setDt v).fault = s.fault := rfl
@[simp] theorem State.setDt_events (s : State) (v : Byte) : (s.setDt v).events = s.events := rfl
@[simp] theorem State.setDt_draws (s : State) (v : Byte) : (s.setDt v).draws = s.draws := rfl
@[simp] theorem State.setDt_getV (s : State) (v : Byte) (j : Reg) : (s.setDt v).getV j = s.getV j := rfl

@[simp] theorem State.setSt_pc (s : State) (v : Byte) : (s.setSt v).pc = s.pc := rfl
@[simp] theorem State.setSt_vreg (s : State) (v : Byte) : (s.setSt v).vreg = s.vreg := rfl
@[simp] theorem State.setSt_ireg (s : State) (v : Byte) : (s.setSt v).ireg = s.ireg := rfl
@[simp] theorem State.setSt_dt (s : State) (v : Byte) : (s.setSt v).dt = s.dt := rfl
@[simp] theorem State.setSt_st (s : State) (v : Byte) : (s.setSt v).st = v := rfl
@[simp] theorem State.setSt_stack (s : State) (v : Byte) : (s.setSt v).stack = s.stack := rfl
@[simp] theorem State.setSt_sp (s : State) (v : Byte) : (s.setSt v).sp = s.sp := rfl
@[simp] theorem State.setSt_mem (s : State) (v : Byte) : (s.setSt v).mem = s.mem := rfl
@[simp] theorem State.setSt_keys (s : State) (v : Byte) : (s.setSt v).keys = s.keys := rfl
@[simp] theorem State.setSt_mode (s : State) (v : Byte) : (s.setSt v).mode = s.mode := rfl
@[simp] theorem State.setSt_pstd (s : State) (v : Byte) : (s.setSt v).pstd = s.pstd := rfl
@[simp] theorem State.setSt_pext (s : State) (v : Byte) : (s.setSt v).pext = s.pext := rfl
@[simp] theorem State.setSt_drawPending (s : State) (v : Byte) : (s.setSt v).drawPending = s.drawPending := rfl
@[simp] theorem State.setSt_running (s : State) (v : Byte) : (s.setSt v).running = s.running := rfl
@[simp] theorem State.setSt_fault (s : State) (v : Byte) : (s.setSt v).fault = s.fault := rfl
@[simp] theorem State.setSt_events (s : State) (v : Byte) : (s.setSt v).events = s.events := rfl
@[simp] theorem State.setSt_draws (s : State) (v : Byte) : (s.setSt v).draws = s.draws := rfl
@[simp] theorem State.setSt_getV (s : State) (v : Byte) (j : Reg) : (s.setSt v).getV j = s.getV j := rfl

@[simp] theorem State.setMode_pc (s : State) (m : Resolution) : (s.setMode m).pc = s.pc := rfl
@[simp] theorem State.setMode_vreg (s : State) (m : Resolution) : (s.setMode m).vreg = s.vreg := rfl
@[simp] theorem State.setMode_ireg (s : State) (m : Resolution) : (s.setMode m).ireg = s.ireg := rfl
@[simp] theorem State.setMode_dt (s : State) (m : Resolution) : (s.setMode m).dt = s.dt := rfl
@[simp] theorem State.setMode_st (s : State) (m : Resolution) : (s.setMode m).st = s.st := rfl
@[simp] theorem State.setMode_stack (s : State) (m : Resolution) : (s.setMode m).stack = s.stack := rfl
@[simp] theorem State.setMode_sp (s : State) (m : Resolution) : (s.setMode m).sp = s.sp := rfl
@[simp] theorem State.setMode_mem (s : State) (m : Resolution) : (s.setMode m).mem = s.mem := rfl
@[simp] theorem State.setMode_keys (s : State) (m : Resolution) : (s.setMode m).keys = s.keys := rfl
@[simp] theorem State.setMode_mode (s : State) (m : Resolution) : (s.setMode m).mode = m := rfl
@[simp] theorem State.setMode_pstd (s : State) (m : Resolution) : (s.setMode m).pstd = s.pstd := rfl
@[simp] theorem State.setMode_pext (s : State) (m : Resolution) : (s.setMode m).pext = s.pext := rfl
@[simp] theorem State.setMode_drawPending (s : State) (m : Resolution) : (s.setMode m).drawPending = s.drawPending := rfl
@[simp] theorem State.setMode_running (s : State) (m : Resolution) : (s.setMode m).running = s.running := rfl
@[simp] theorem State.setMode_fault (s : State) (m : Resolution) : (s.setMode m).fault = s.fault := rfl
@[simp] theorem State.setMode_events (s : State) (m : Resolution) : (s.setMode m).events = s.events := rfl
@[simp] theorem State.setMode_draws (s : State) (m : Resolution) : (s.setMode m).draws = s.draws := rfl
@[simp] theorem State.setMode_getV (s : State) (m : Resolution) (j : Reg) : (s.setMode m).getV j = s.getV j := rfl

@[simp] theorem State.setMem_pc (s : State) (m : Memory) : (s.setMem m).pc = s.pc := rfl
@[simp] theorem State.setMem_vreg (s : State) (m : Memory) : (s.setMem m).vreg = s.vreg := rfl
@[simp] theorem State.setMem_ireg (s : State) (m : Memory) : (s.setMem m).ireg = s.ireg := rfl
@[simp] theorem State.setMem_dt (s : State) (m : Memory) : (s.setMem m).dt = s.dt := rfl
@[simp] theorem State.setMem_st (s : State) (m : Memory) : (s.setMem m).st = s.st := rfl
@[simp] theorem State.setMem_stack (s : State) (m : Memory) : (s.setMem m).stack = s.stack := rfl
@[simp] theorem State.setMem_sp (s : State) (m : Memory) : (s.setMem m).sp = s.sp := rfl
@[simp] theorem State.setMem_mem (s : State) (m : Memory) : (s.setMem m).mem = m := rfl
@[simp] theorem State.setMem_keys (s : State) (m : Memory) : (s.setMem m).keys = s.keys := rfl
@[simp] theorem State.setMem_mode (s : State) (m : Memory) : (s.setMem m).mode = s.mode := rfl
@[simp] theorem State.setMem_pstd (s : State) (m : Memory) : (s.setMem m).pstd = s.pstd := rfl
@[simp] theorem State.setMem_pext (s : State) (m : Memory) : (s.setMem m).pext = s.pext := rfl
@[simp] theorem State.setMem_drawPending (s : State) (m : Memory) : (s.setMem m).drawPending = s.drawPending := rfl
@[simp] theorem State.setMem_running (s : State) (m : Memory) : (s.setMem m).running = s.running := rfl
@[simp] theorem State.setMem_fault (s : State) (m : Memory) : (s.setMem m).fault = s.fault := rfl
@[simp] theorem State.setMem_events (s : State) (m : Memory) : (s.setMem m).events = s.events := rfl
@[simp] theorem State.setMem_draws (s : State) (m : Memory) : (s.setMem m).draws = s.draws := rfl
@[simp] theorem State.setMem_getV (s : State) (m : Memory) (j : Reg) : (s.setMem m).getV j = s.getV j := rfl

@[simp] theorem State.halt_pc (s : State) : (s.halt).pc = s.pc := rfl
@[simp] theorem State.halt_vreg (s : State) : (s.halt).vreg = s.vreg := rfl
@[simp] theorem State.halt_ireg (s : State) : (s.halt).ireg = s.ireg := rfl
@[simp] theorem State.halt_dt (s : State) : (s.halt).dt = s.dt := rfl
@[simp] theorem State.halt_st (s : State) : (s.halt).st = s.st := rfl
@[simp] theorem State.halt_stack (s : State) : (s.halt).stack = s.stack := rfl
@[simp] theorem State.halt_sp (s : State) : (s.halt).sp = s.sp := rfl
@[simp] theorem State.halt_mem (s : State) : (s.halt).mem = s.mem := rfl
@[simp] theorem State.halt_keys (s : State) : (s.halt).keys = s.keys := rfl
@[simp] theorem State.halt_mode (s : State) : (s.halt).mode = s.mode := rfl
@[simp] theorem State.halt_pstd (s : State) : (s.halt).pstd = s.pstd := rfl
@[simp] theorem State.halt_pext (s : State) : (s.halt).pext = s.pext := rfl
@[simp] theorem State.halt_drawPending (s : State) : (s.halt).drawPending = s.drawPending := rfl
@[simp] theorem State.halt_running (s : State) : (s.halt).running = false := rfl
@[simp] theorem State.halt_fault (s : State) : (s.halt).fault = s.fault := rfl
@[simp] theorem State.halt_events (s : State) : (s.halt).events = s.events := rfl
@[simp] theorem State.halt_draws (s : State) : (s.halt).draws = s.draws := rfl
@[simp] theorem State.halt_getV (s : State) (j : Reg) : (s.halt).getV j = s.getV j := rfl

@[simp] theorem State.markDrawn_pc (s : State) : (s.markDrawn).pc = s.pc := rfl
@[simp] theorem State.markDrawn_vreg (s : State) : (s.markDrawn).vreg = s.vreg := rfl
@[simp] theorem State.markDrawn_ireg (s : State) : (s.markDrawn).ireg = s.ireg := rfl
@[simp] theorem State.markDrawn_dt (s : State) : (s.markDrawn).dt = s.dt := rfl
@[simp] theorem State.markDrawn_st (s : State) : (s.markDrawn).st = s.st := rfl
@[simp] theorem State.markDrawn_stack (s : State) : (s.markDrawn).stack = s.stack := rfl
@[simp] theorem State.markDrawn_sp (s : State) : (s.markDrawn).sp = s.sp := rfl
@[simp] theorem State.markDrawn_mem (s : State) : (s.markDrawn).mem = s.mem := rfl
@[simp] theorem State.markDrawn_keys (s : State) : (s.markDrawn).keys = s.keys := rfl
@[simp] theorem State.markDrawn_mode (s : State) : (s.markDrawn).mode = s.mode := rfl
@[simp] theorem State.markDrawn_pstd (s : State) : (s.markDrawn).pstd = s.pstd := rfl
@[simp] theorem State.markDrawn_pext (s : State) : (s.markDrawn).pext = s.pext := rfl
@[simp] theorem State.markDrawn_drawPending (s : State) : (s.markDrawn).drawPending = true := rfl
@[simp] theorem State.markDrawn_running (s : State) : (s.markDrawn).running = s.running := rfl
@[simp] theorem State.markDrawn_fault (s : State) : (s.markDrawn).fault = s.fault := rfl
@[simp] theorem State.markDrawn_events (s : State) : (s.markDrawn).events = s.events := rfl
@[simp] theorem State.markDrawn_draws (s : State) : (s.markDrawn).draws = s.draws := rfl
@[simp] theorem State.markDrawn_getV (s : State) (j : Reg) : (s.markDrawn).getV j = s.getV j := rfl

@[simp] theorem State.countDraw_pc (s : State) : (s.countDraw).pc = s.pc := rfl
@[simp] theorem State.countDraw_vreg (s : State) : (s.countDraw).vreg = s.vreg := rfl
@[simp] theorem State.countDraw_ireg (s : State) : (s.countDraw).ireg = s.ireg := rfl
@[simp] theorem State.countDraw_dt (s : State) : (s.countDraw).dt = s.dt := rfl
@[simp] theorem State.countDraw_st (s : State) : (s.countDraw).st = s.st := rfl
@[simp] theorem State.countDraw_stack (s : State) : (s.countDraw).stack = s.stack := rfl
@[simp] theorem State.countDraw_sp (s : State) : (s.countDraw).sp = s.sp := rfl
@[simp] theorem State.countDraw_mem (s : State) : (s.countDraw).mem = s.mem := rfl
@[simp] theorem State.countDraw_keys (s : State) : (s.countDraw).keys = s.keys := rfl
@[simp] theorem State.countDraw_mode (s : State) : (s.countDraw).mode = s.mode := rfl
@[simp] theorem State.countDraw_pstd (s : State) : (s.countDraw).pstd = s.pstd := rfl
@[simp] theorem State.countDraw_pext (s : State) : (s.countDraw).pext = s.pext := rfl
@[simp] theorem State.countDraw_drawPending (s : State) : (s.countDraw).drawPending = s.drawPending := rfl
@[simp] theorem State.countDraw_running (s : State) : (s.countDraw).running = s.running := rfl
@[simp] theorem State.countDraw_fault (s : State) : (s.countDraw).fault = s.fault := rfl
@[simp] theorem State.countDraw_events (s : State) : (s.countDraw).events = s.events := rfl
@[simp] theorem State.countDraw_draws (s : State) : (s.countDraw).draws = s.draws + 1 := rfl
@[simp] theorem State.countDraw_getV (s : State) (j : Reg) : (s.countDraw).getV j = s.getV j := rfl

@[simp] theorem State.emit_pc (s : State) (e : Event) : (s.emit e).pc = s.pc := rfl
@[simp] theorem State.emit_vreg (s : State) (e : Event) : (s.emit e).vreg = s.vreg := rfl
@[simp] theorem State.emit_ireg (s : State) (e : Event) : (s.emit e).ireg = s.ireg := rfl
@[simp] theorem State.emit_dt (s : State) (e : Event) : (s.emit e).dt = s.dt := rfl
@[simp] theorem State.emit_st (s : State) (e : Event) : (s.emit e).st = s.st := rfl
@[simp] theorem State.emit_stack (s : State) (e : Event) : (s.emit e).stack = s.stack := rfl
@[simp] theorem State.emit_sp (s : State) (e : Event) : (s.emit e).sp = s.sp := rfl
@[simp] theorem State.emit_mem (s : State) (e : Event) : (s.emit e).mem = s.mem := rfl
@[simp] theorem State.emit_keys (s : State) (e : Event) : (s.emit e).keys = s.keys := rfl
@[simp] theorem State.emit_mode (s : State) (e : Event) : (s.emit e).mode = s.mode := rfl
@[simp] theorem State.emit_pstd (s : State) (e : Event) : (s.emit e).pstd = s.pstd := rfl
@[simp] theorem State.emit_pext (s : State) (e : Event) : (s.emit e).pext = s.pext := rfl
@[simp] theorem State.emit_drawPending (s : State) (e : Event) : (s.emit e).drawPending = s.drawPending := rfl
@[simp] theorem State.emit_running (s : State) (e : Event) : (s.emit e).running = s.running := rfl
@[simp] theorem State.emit_fault (s : State) (e : Event) : (s.emit e).fault = s.fault := rfl
@[simp] theorem State.emit_events (s : State) (e : Event) : (s.emit e).events = e :: s.events := rfl
@[simp] theorem State.emit_draws (s : State) (e : Event) : (s.emit e).draws = s.draws := rfl
@[simp] theorem State.emit_getV (s : State) (e : Event) (j : Reg) : (s.emit e).getV j = s.getV j := rfl

@[simp] theorem State.jump_pc (s : State) (a : Word) : (s.jump a).pc = a := rfl
@[simp] theorem State.jump_vreg (s : State) (a : Word) : (s.jump a).vreg = s.vreg := rfl
@[simp] theorem State.jump_ireg (s : State) (a : Word) : (s.jump a).ireg = s.ireg := rfl
@[simp] theorem State.jump_dt (s : State) (a : Word) : (s.jump a).dt = s.dt := rfl
@[simp] theorem State.jump_st (s : State) (a : Word) : (s.jump a).st = s.st := rfl
@[simp] theorem State.jump_stack (s : State) (a : Word) : (s.jump a).stack = s.stack := rfl
@[simp] theorem State.jump_sp (s : State) (a : Word) : (s.jump a).sp = s.sp := rfl
@[simp] theorem State.jump_mem (s : State) (a : Word) : (s.jump a).mem = s.mem := rfl
@[simp] theorem State.jump_keys (s : State) (a : Word) : (s.jump a).keys = s.keys := rfl
@[simp] theorem State.jump_mode (s : State) (a : Word) : (s.jump a).mode = s.mode := rfl
@[simp] theorem State.jump_pstd (s : State) (a : Word) : (s.jump a).pstd = s.pstd := rfl
@[simp] theorem State.jump_pext (s : State) (a : Word) : (s.jump a).pext = s.pext := rfl
@[simp] theorem State.jump_drawPending (s : State) (a : Word) : (s.jump a).drawPending = s.drawPending := rfl
@[simp] theorem State.jump_running (s : State) (a : Word) : (s.jump a).running = s.running := rfl
@[simp] theorem State.jump_fault (s : State) (a : Word) : (s.jump a).fault = s.fault := rfl
@[simp] theorem State.jump_events (s : State) (a : Word) : (s.jump a).events = s.events := rfl
@[simp] theorem State.jump_draws (s : State) (a : Word) : (s.jump a).draws = s.draws := rfl
@[simp] theorem State.jump_getV (s : State) (a : Word) (j : Reg) : (s.jump a).getV j = s.getV j := rfl

@[simp] theorem State.advance_pc (s : State) : (s.advance).pc = s.pc + 2 := rfl
@[simp] theorem State.advance_vreg (s : State) : (s.advance).vreg = s.vreg := rfl
@[simp] theorem State.advance_ireg (s : State) : (s.advance).ireg = s.ireg := rfl
@[simp] theorem State.advance_dt (s : State) : (s.advance).dt = s.dt := rfl
@[simp] theorem State.advance_st (s : State) : (s.advance).st = s.st := rfl
@[simp] theorem State.advance_stack (s : State) : (s.advance).stack = s.stack := rfl
@[simp] theorem State.advance_sp (s : State) : (s.advance).sp = s.sp := rfl
@[simp] theorem State.advance_mem (s : State) : (s.advance).mem = s.mem := rfl
@[simp] theorem State.advance_keys (s : State) : (s.advance).keys = s.keys := rfl
@[simp] theorem State.advance_mode (s : State) : (s.advance).mode = s.mode := rfl
@[simp] theorem State.advance_pstd (s : State) : (s.advance).pstd = s.pstd := rfl
@[simp] theorem State.advance_pext (s : State) : (s.advance).pext = s.pext := rfl
@[simp] theorem State.advance_drawPending (s : State) : (s.advance).drawPending = s.drawPending := rfl
@[simp] theorem State.advance_running (s : State) : (s.advance).running = s.running := rfl
@[simp] theorem State.advance_fault (s : State) : (s.advance).fault = s.fault := rfl
@[simp] theorem State.advance_events (s : State) : (s.advance).events = s.events := rfl
@[simp] theorem State.advance_draws (s : State) : (s.advance).draws = s.draws := rfl
@[simp] theorem State.advance_getV (s : State) (j : Reg) : (s.advance).getV j = s.getV j := rfl

@[simp] theorem State.skipIf_pc (s : State) (c : Bool) : (s.skipIf c).pc = if c then s.pc + 4 else s.pc + 2 := rfl
@[simp] theorem State.skipIf_vreg (s : State) (c : Bool) : (s.skipIf c).vreg = s.vreg := rfl
@[simp] theorem State.skipIf_ireg (s : State) (c : Bool) : (s.skipIf c).ireg = s.ireg := rfl
@[simp] theorem State.skipIf_dt (s : State) (c : Bool) : (s.skipIf c).dt = s.dt := rfl
@[simp] theorem State.skipIf_st (s : State) (c : Bool) : (s.skipIf c).st = s.st := rfl
@[simp] theorem State.skipIf_stack (s : State) (c : Bool) : (s.skipIf c).stack = s.stack := rfl
@[simp] theorem State.skipIf_sp (s : State) (c : Bool) : (s.skipIf c).sp = s.sp := rfl
@[simp] theorem State.skipIf_mem (s : State) (c : Bool) : (s.skipIf c).mem = s.mem := rfl
@[simp] theorem State.skipIf_keys (s : State) (c : Bool) : (s.skipIf c).keys = s.keys := rfl
@[simp] theorem State.skipIf_mode (s : State) (c : Bool) : (s.skipIf c).mode = s.mode := rfl
@[simp] theorem State.skipIf_pstd (s : State) (c : Bool) : (s.skipIf c).pstd = s.pstd := rfl
@[simp] theorem State.skipIf_pext (s : State) (c : Bool) : (s.skipIf c).pext = s.pext := rfl
@[simp] theorem State.skipIf_drawPending (s : State) (c : Bool) : (s.skipIf c).drawPending = s.drawPending := rfl
@[simp] theorem State.skipIf_running (s : State) (c : Bool) : (s.skipIf c).running = s.running := rfl
@[simp] theorem State.skipIf_fault (s : State) (c : Bool) : (s.skipIf c).fault = s.fault := rfl
@[simp] theorem State.skipIf_events (s : State) (c : Bool) : (s.skipIf c).events = s.events := rfl
@[simp] theorem State.skipIf_draws (s : State) (c : Bool) : (s.skipIf c).draws = s.draws := rfl
@[simp] theorem State.skipIf_getV (s : State) (c : Bool) (j : Reg) : (s.skipIf c).getV j = s.getV j := rfl

@[simp] theorem State.raise_pc (s : State) (k : FaultKind) (op : Option Word) (a : Option Nat) : (s.raise k op a).pc = s.pc := rfl
@[simp] theorem State.raise_vreg (s : State) (k : FaultKind) (op : Option Word) (a : Option Nat) : (s.raise k op a).vreg = s.vreg := rfl
@[simp] theorem State.raise_ireg (s : State) (k : FaultKind) (op : Option Word) (a : Option Nat) : (s.raise k op a).ireg = s.ireg := rfl
@[simp] theorem State.raise_dt (s : State) (k : FaultKind) (op : Option Word) (a : Option Nat) : (s.raise k op a).dt = s.dt := rfl
@[simp] theorem State.raise_st (s : State) (k : FaultKind) (op : Option Word) (a : Option Nat) : (s.raise k op a).st = s.st := rfl
@[simp] theorem State.raise_stack (s : State) (k : FaultKind) (op : Option Word) (a : Option Nat) : (s.raise k op a).stack = s.stack := rfl
@[simp] theorem State.raise_sp (s : State) (k : FaultKind) (op : Option Word) (a : Option Nat) : (s.raise k op a).sp = s.sp := rfl
@[simp] theorem State.raise_mem (s : State) (k : FaultKind) (op : Option Word) (a : Option Nat) : (s.raise k op a).mem = s.mem := rfl
@[simp] theorem State.raise_keys (s : State) (k : FaultKind) (op : Option Word) (a : Option Nat) : (s.raise k op a).keys = s.keys := rfl
@[simp] theorem State.raise_mode (s : State) (k : FaultKind) (op : Option Word) (a : Option Nat) : (s.raise k op a).mode = s.mode := rfl
@[simp] theorem State.raise_pstd (s : State) (k : FaultKind) (op : Option Word) (a : Option Nat) : (s.raise k op a).pstd = s.pstd := rfl
@[simp] theorem State.raise_pext (s : State) (k : FaultKind) (op : Option Word) (a : Option Nat) : (s.raise k op a).pext = s.pext := rfl
@[simp] theorem State.raise_drawPending (s : State) (k : FaultKind) (op : Option Word) (a : Option Nat) : (s.raise k op a).drawPending = s.drawPending := rfl
@[simp] theorem State.raise_running (s : State) (k : FaultKind) (op : Option Word) (a : Option Nat) : (s.raise k op a).running = s.running := rfl
@[simp] theorem State.raise_fault (s : State) (k : FaultKind) (op : Option Word) (a : Option Nat) : (s.raise k op a).fault = some ⟨k, s.pc, op, a⟩ := rfl
@[simp] theorem State.raise_events (s : State) (k : FaultKind) (op : Option Word) (a : Option Nat) : (s.raise k op a).events = s.events := rfl
@[simp] theorem State.raise_draws (s : State) (k : FaultKind) (op : Option Word) (a : Option Nat) : (s.raise k op a).draws = s.draws := rfl
@[simp] theorem State.raise_getV (s : State) (k : FaultKind) (op : Option Word) (a : Option Nat) (j : Reg) : (s.raise k op a).getV j = s.getV j := rfl

@[simp] theorem State.construct_pc (font : Vector Byte 80) : (State.construct font).pc = State.reset.pc := rfl
@[simp] theorem State.construct_vreg (font : Vector Byte 80) : (State.construct font).vreg = State.reset.vreg := rfl
@[simp] theorem State.construct_ireg (font : Vector Byte 80) : (State.construct font).ireg = State.reset.ireg := rfl
@[simp] theorem State.construct_dt (font : Vector Byte 80) : (State.construct font).dt = State.reset.dt := rfl
@[simp] theorem State.construct_st (font : Vector Byte 80) : (State.construct font).st = State.reset.st := rfl
@[simp] theorem State.construct_stack (font : Vector Byte 80) : (State.construct font).stack = State.reset.stack := rfl
@[simp] theorem State.construct_sp (font : Vector Byte 80) : (State.construct font).sp = State.reset.sp := rfl
@[simp] theorem State.construct_keys (font : Vector Byte 80) : (State.construct font).keys = State.reset.keys := rfl
@[simp] theorem State.construct_mode (font : Vector Byte 80) : (State.construct font).mode = State.reset.mode := rfl
@[simp] theorem State.construct_pstd (font : Vector Byte 80) : (State.construct font).pstd = State.reset.pstd := rfl
@[simp] theorem State.construct_pext (font : Vector Byte 80) : (State.construct font).pext = State.reset.pext := rfl
@[simp] theorem State.construct_drawPending (font : Vector Byte 80) : (State.construct font).drawPending = State.reset.drawPending := rfl
@[simp] theorem State.construct_running (font : Vector Byte 80) : (State.construct font).running = State.reset.running := rfl
@[simp] theorem State.construct_fault (font : Vector Byte 80) : (State.construct font).fault = State.reset.fault := rfl
@[simp] theorem State.construct_events (font : Vector Byte 80) : (State.construct font).events = State.reset.events := rfl
@[simp] theorem State.construct_draws (font : Vector Byte 80) : (State.construct font).draws = State.reset.draws := rfl
@[simp] theorem State.construct_mem (font : Vector Byte 80) : (State.construct font).mem = Memory.writeBytes [] 0 font.toList := rfl
@[simp] theorem State.construct_getV (font : Vector Byte 80) (j : Reg) : (State.construct font).getV j = State.reset.getV j := rfl

@[simp] theorem State.reconstruct_pc (s : State) (font : Vector Byte 80) : (s.reconstruct font).pc = State.reset.pc := rfl
@[simp] theorem State.reconstruct_vreg (s : State) (font : Vector Byte 80) : (s.reconstruct font).vreg = State.reset.vreg := rfl
@[simp] theorem State.reconstruct_ireg (s : State) (font : Vector Byte 80) : (s.reconstruct font).ireg = State.reset.ireg := rfl
@[simp] theorem State.reconstruct_dt (s : State) (font : Vector Byte 80) : (s.reconstruct font).dt = State.reset.dt := rfl
@[simp] theorem State.reconstruct_st (s : State) (font : Vector Byte 80) : (s.reconstruct font).st = State.reset.st := rfl
@[simp] theorem State.reconstruct_stack (s : State) (font : Vector Byte 80) : (s.reconstruct font).stack = State.reset.stack := rfl
@[simp] theorem State.reconstruct_sp (s : State) (font : Vector Byte 80) : (s.reconstruct font).sp = State.reset.sp := rfl
@[simp] theorem State.reconstruct_keys (s : State) (font : Vector Byte 80) : (s.reconstruct font).keys = State.reset.keys := rfl
@[simp] theorem State.reconstruct_mode (s : State) (font : Vector Byte 80) : (s.reconstruct font).mode = State.reset.mode := rfl
@[simp] theorem State.reconstruct_pstd (s : State) (font : Vector Byte 80) : (s.reconstruct font).pstd = State.reset.pstd := rfl
@[simp] theorem State.reconstruct_pext (s : State) (font : Vector Byte 80) : (s.reconstruct font).pext = State.reset.pext := rfl
@[simp] theorem State.reconstruct_drawPending (s : State) (font : Vector Byte 80) : (s.reconstruct font).drawPending = State.reset.drawPending := rfl
@[simp] theorem State.reconstruct_running (s : State) (font : Vector Byte 80) : (s.reconstruct font).running = State.reset.running := rfl
@[simp] theorem State.reconstruct_fault (s : State) (font : Vector Byte 80) : (s.reconstruct font).fault = State.reset.fault := rfl
@[simp] theorem State.reconstruct_events (s : State) (font : Vector Byte 80) : (s.reconstruct font).events = State.reset.events := rfl
@[simp] theorem State.reconstruct_draws (s : State) (font : Vector Byte 80) : (s.reconstruct font).draws = s.draws := rfl
@[simp] theorem State.reconstruct_mem (s : State) (font : Vector Byte 80) : (s.reconstruct font).mem = (State.construct font).mem := rfl
@[simp] theorem State.reconstruct_getV (s : State) (font : Vector Byte 80) (j : Reg) : (s.reconstruct font).getV j = State.reset.getV j := rfl

/-- A register reads as written. -/
@[simp] theorem State.getV_setV_same (s : State) (x : Reg) (v : Byte) : (s.setV x v).getV x = v := by
  simp [State.getV]

/-- Another register is untouched by a write. -/
theorem State.getV_setV_ne (s : State) {x j : Reg} (v : Byte) (h : j ≠ x) :
    (s.setV x v).getV j = s.getV j := by
  have : x.toNat ≠ j.toNat := fun e => h (BitVec.eq_of_toNat_eq e.symm)
  simp [State.getV, Vector.getElem_set_ne, this]

/-- A register read after a write, by cases on the register. -/
theorem State.getV_setV (s : State) (x j : Reg) (v : Byte) :
    (s.setV x v).getV j = if j = x then v else s.getV j := by
  split
  · next h => subst h; simp
  · next h => exact s.getV_setV_ne v h

/-- VF reads as the flag written. -/
@[simp] theorem State.getV_setFlag_same (s : State) (b : Bool) :
    (s.setFlag b).getV Reg.flag = flagByte b := State.getV_setV_same ..

/-- Only VF is touched by a flag write. -/
theorem State.getV_setFlag_ne (s : State) (b : Bool) {j : Reg} (h : j ≠ Reg.flag) :
    (s.setFlag b).getV j = s.getV j := s.getV_setV_ne _ h

/-- Registers agree when the register files do. -/
theorem State.getV_congr {s t : State} (h : t.vreg = s.vreg) (j : Reg) : t.getV j = s.getV j := by
  simp [State.getV, h]

end Sys2Proof.Machine
end

