-- ==== Sys2Proof/Laws/Ops.lean ====
section
/-! SUPPORT. One lemma per shared operation that says everything it can do, so that later proofs cite
it and do not unfold the operation. -/

namespace Sys2Proof.Machine

/-! ## The block at I -/

/-- The range check passes exactly when every address of the block is at most 0xFFF. -/
theorem outOfRange_eq_none {i : Word} {len : Nat} :
    outOfRange i len = none ↔ ∀ k, k < len → i.toNat + k ≤ 0xFFF := by
  simp only [outOfRange]
  split
  · next h => exact ⟨fun e => by simp at e, fun hk => by have := hk (len - 1) (by omega); omega⟩
  · next h => exact ⟨fun _ k hk => by omega, fun _ => rfl⟩

/-- A failing check answers max(I, 0x1000). -/
theorem outOfRange_eq_some {i : Word} {len a : Nat} :
    outOfRange i len = some a ↔ (0 < len ∧ 0xFFF < i.toNat + len - 1) ∧ a = max i.toNat 0x1000 := by
  simp only [outOfRange]
  split
  · next h => simp [h, eq_comm]
  · next h => simp [h]

/-- The address a failing check answers is the lowest of the block's that lies above 0xFFF. -/
theorem outOfRange_lowest {i : Word} {len a : Nat} (h : outOfRange i len = some a) :
    (∃ k, k < len ∧ a = i.toNat + k) ∧ 0xFFF < a ∧ ∀ k, k < len → 0xFFF < i.toNat + k → a ≤ i.toNat + k := by
  obtain ⟨⟨h0, h1⟩, rfl⟩ := outOfRange_eq_some.mp h
  refine ⟨⟨max i.toNat 0x1000 - i.toNat, by omega, by omega⟩, by omega, fun k _ hk => by omega⟩

/-- `withBlock` either takes MEM_OUT_OF_RANGE or leaves the state it was given. -/
theorem State.withBlock_cases (s : State) (i : Instr) (len : Nat) (done : State) :
    ((∀ k, k < len → s.ireg.toNat + k ≤ 0xFFF) ∧ s.withBlock i len done = .next done) ∨
    ((0 < len ∧ 0xFFF < s.ireg.toNat + len - 1) ∧
      s.withBlock i len done =
        .next (s.raise .memOutOfRange (some (encode i)) (some (max s.ireg.toNat 0x1000)))) := by
  simp only [State.withBlock]
  cases h : outOfRange s.ireg len with
  | none => exact .inl ⟨outOfRange_eq_none.mp h, rfl⟩
  | some a =>
    obtain ⟨hr, rfl⟩ := outOfRange_eq_some.mp h
    exact .inr ⟨hr, rfl⟩

/-! ## The stack -/

/-- A push fails exactly on a full stack; else it fills slot sp and counts it. -/
theorem State.push?_cases (s : State) :
    (s.sp.val = 16 ∧ s.push? = none) ∨
    ∃ (h : s.sp.val < 16), s.push? =
      some { s with stack := s.stack.set s.sp.val s.pc h, sp := ⟨s.sp.val + 1, by omega⟩ } := by
  have := s.sp.isLt
  by_cases h : s.sp.val < 16
  · exact .inr ⟨h, by simp [State.push?, h]⟩
  · exact .inl ⟨by omega, by simp [State.push?, h]⟩

/-- A pop fails exactly on an empty stack; else it answers slot sp - 1 and uncounts it. -/
theorem State.pop?_cases (s : State) :
    (s.sp.val = 0 ∧ s.pop? = none) ∨
    ∃ (_ : 0 < s.sp.val) (hlt : s.sp.val - 1 < 16), s.pop? =
      some (s.stack[s.sp.val - 1], { s with sp := ⟨s.sp.val - 1, by omega⟩ }) := by
  have := s.sp.isLt
  by_cases h : s.sp.val = 0
  · exact .inl ⟨h, by simp [State.pop?, h]⟩
  · exact .inr ⟨by omega, by omega, by simp [State.pop?, h]⟩

/-! ## Keys -/

/-- A key skip faults exactly when the byte names no key; else it skips on the level. -/
theorem State.skipOnKey_cases (s : State) (i : Instr) (k : Byte) (wanted : Bool) :
    (0xF < k.toNat ∧ s.skipOnKey i k wanted =
      .next (s.raise .keyOutOfRange (some (encode i)) (some k.toNat))) ∨
    ∃ (h : k.toNat < 16), s.skipOnKey i k wanted = .next (s.skipIf (s.keys[k.toNat] == wanted)) := by
  by_cases h : k.toNat < 16
  · exact .inr ⟨h, by simp [State.skipOnKey, State.keyLevel, h]⟩
  · exact .inl ⟨by omega, by simp [State.skipOnKey, State.keyLevel, h]⟩

/-- The pressed keys are those whose level is 1. -/
theorem State.mem_pressedKeys (s : State) (k : Nat) :
    k ∈ s.pressedKeys ↔ ∃ (h : k < 16), s.keys[k] = true := by
  simp only [State.pressedKeys, List.mem_filter, List.mem_range]
  constructor
  · rintro ⟨h, hk⟩; exact ⟨h, by rwa [vector_getD_of_lt _ _ h] at hk⟩
  · rintro ⟨h, hk⟩; exact ⟨h, by rwa [vector_getD_of_lt _ _ h]⟩

/-- Whatever is drawn, the key chosen is one of those pressed. -/
theorem chooseKey_mem (draw : Nat) {pressed : List Nat} (h : pressed ≠ []) :
    chooseKey draw pressed ∈ pressed := by
  match pressed, h with
  | [k], _ => simp [chooseKey]
  | k :: k' :: ks, _ =>
    have hlt : Config.keyChoice draw % (k :: k' :: ks).length < (k :: k' :: ks).length :=
      Nat.mod_lt _ (by simp)
    simp only [chooseKey, List.getD_eq_getElem _ _ hlt]
    exact List.getElem_mem hlt

/-! ## Arithmetic with a flag -/

/-- A result register other than VF keeps the result; VF holds the flag, whatever the register. -/
theorem State.putResultFlag_spec (s : State) (x : Reg) (v : Byte) (flag : Bool) :
    ∃ t, s.putResultFlag x v flag = .next t ∧ t.getV Reg.flag = flagByte flag ∧
      (x ≠ Reg.flag → t.getV x = v) ∧ (∀ j, j ≠ x → j ≠ Reg.flag → t.getV j = s.getV j) ∧
      t = { s with vreg := t.vreg, pc := s.pc + 2 } := by
  refine ⟨_, rfl, ?_, fun hx => ?_, fun j hj hf => ?_, rfl⟩
  · simp
  · simp [State.getV_setFlag_ne _ _ hx]
  · simp [State.getV_setFlag_ne _ _ hf, State.getV_setV_ne _ _ hj]

/-- The shifts: with x = F the operation applies to the flag, else to the register. -/
theorem State.flagThenResult_spec (s : State) (x : Reg) (flag : Byte) (f : Byte → Byte) :
    ∃ t, s.flagThenResult x flag f = .next t ∧
      (x ≠ Reg.flag → t.getV Reg.flag = flag ∧ t.getV x = f (s.getV x)) ∧
      (x = Reg.flag → t.getV Reg.flag = f flag) ∧
      (∀ j, j ≠ x → j ≠ Reg.flag → t.getV j = s.getV j) ∧
      t = { s with vreg := t.vreg, pc := s.pc + 2 } := by
  refine ⟨_, rfl, fun hx => ⟨?_, ?_⟩, fun hx => ?_, fun j hj hf => ?_, rfl⟩
  · simp [State.getV_setV_ne _ _ (Ne.symm hx)]
  · simp [State.getV_setV_ne _ _ hx]
  · subst hx; simp
  · simp [State.getV_setV_ne _ _ hj, State.getV_setV_ne _ _ hf]

/-! ## Clearing and drawing -/

/-- Clearing writes the active plane alone. -/
theorem State.clearActive_cases (s : State) :
    (s.mode = .standard ∧ s.clearActive = { s with pstd := Plane.clear 64 32 }) ∨
    (s.mode = .extended ∧ s.clearActive = { s with pext := Plane.clear 128 64 }) := by
  cases h : s.mode <;> simp [State.clearActive, h]

/-- Drawing writes the active plane and VF alone. -/
theorem State.drawSprite_cases (s : State) (x y : Nat) (sprite : List Byte) :
    (s.mode = .standard ∧ s.drawSprite x y sprite =
      State.setFlag { s with pstd := (Canvas.rows ⟨s.pstd, false⟩ x y sprite).plane }
        (Canvas.rows ⟨s.pstd, false⟩ x y sprite).collided) ∨
    (s.mode = .extended ∧ s.drawSprite x y sprite =
      State.setFlag { s with pext := (Canvas.rows ⟨s.pext, false⟩ x y sprite).plane }
        (Canvas.rows ⟨s.pext, false⟩ x y sprite).collided) := by
  cases h : s.mode <;> simp [State.drawSprite, h]

/-! ## The tick -/

/-- The tick writes the timers and the event stream alone. -/
theorem State.tick_spec (s : State) :
    s.tick = { s with
      dt := if 0 < s.dt.toNat then s.dt - 1 else s.dt
      st := if 0 < s.st.toNat then s.st - 1 else s.st
      events := if (if 0 < s.st.toNat then s.st - 1 else s.st) = 0 then .silence :: s.events
        else s.events } := by
  by_cases h1 : 0 < s.dt.toNat <;> by_cases h2 : 0 < s.st.toNat <;>
    by_cases h3 : s.st - 1 = 0 <;> by_cases h4 : s.st = 0 <;>
    simp_all [State.tick, State.tickDelay, State.tickSound, State.setDt, State.setSt, State.emit]

/-- What `commit` leaves, by the ending. -/
theorem State.commit_done (tww : Bool) (s t : State) : State.commit tww .done s t = t.tick := rfl

theorem State.commit_faulted (tww : Bool) (s t : State) : State.commit tww .faulted s t = t := rfl

theorem State.commit_wait (s t : State) : State.commit false .wait s t = s := rfl

end Sys2Proof.Machine
end

