-- ==== Sys2Proof/Laws/PerInstr.lean ====
section
/-! SUPPORT. Statements made per instruction. FixedBits: the word of an instruction has every fixed
bit of the instruction's own row of spec/opcode_table.json (30_encoding.md R75), and that row is one of
the table's. -/

namespace Sys2Proof.Laws.FixedBits

/-- The instruction's word matches its own row, and the row stands in the table. -/
def Statement (i : Instr) : Prop := i.row.covers (encode i) = true ∧ i.row ∈ opcodeTable

/-- Masking with 1s keeps a nibble. -/
theorem and_ones (f : BitVec 4) : f &&& 0xF#4 = f := BitVec.and_allOnes

theorem covers_formatNNN {f : BitVec 4} {nnn : Addr} {v : Word} (h : f ++ 0#12 = v) :
    (OpcodeRow.mk 0xF000 v).covers (formatNNN f nnn) = true := by
  have hand : formatNNN f nnn &&& 0xF000 = (f &&& 0xF#4) ++ (nnn &&& 0#12) :=
    BitVec.and_append (x₁ := f) (x₂ := 0xF#4) (y₁ := nnn) (y₂ := 0#12)
  simp only [OpcodeRow.covers, beq_iff_eq, hand, and_ones, BitVec.and_zero, h]

theorem covers_formatXNN {f : BitVec 4} {x : Reg} {nn : Byte} {v : Word} (h : f ++ 0#4 ++ 0#8 = v) :
    (OpcodeRow.mk 0xF000 v).covers (formatXNN f x nn) = true := by
  have hand : formatXNN f x nn &&& 0xF000 = (f &&& 0xF#4) ++ (x &&& 0#4) ++ (nn &&& 0#8) := by
    rw [← BitVec.and_append, ← BitVec.and_append]; rfl
  simp only [OpcodeRow.covers, beq_iff_eq, hand, and_ones, BitVec.and_zero, h]

theorem covers_formatX {f : BitVec 4} {x : Reg} {nn : Byte} {v : Word} (h : f ++ 0#4 ++ nn = v) :
    (OpcodeRow.mk 0xF0FF v).covers (formatXNN f x nn) = true := by
  have hnn : nn &&& 0xFF#8 = nn := BitVec.and_allOnes
  have hand : formatXNN f x nn &&& 0xF0FF = (f &&& 0xF#4) ++ (x &&& 0#4) ++ (nn &&& 0xFF#8) := by
    rw [← BitVec.and_append, ← BitVec.and_append]; rfl
  simp only [OpcodeRow.covers, beq_iff_eq, hand, and_ones, hnn, BitVec.and_zero, h]

theorem covers_formatXY {f : BitVec 4} {x y : Reg} {n : BitVec 4} {v : Word}
    (h : f ++ 0#4 ++ 0#4 ++ n = v) : (OpcodeRow.mk 0xF00F v).covers (formatXYN f x y n) = true := by
  have hand : formatXYN f x y n &&& 0xF00F =
      (f &&& 0xF#4) ++ (x &&& 0#4) ++ (y &&& 0#4) ++ (n &&& 0xF#4) := by
    rw [← BitVec.and_append, ← BitVec.and_append, ← BitVec.and_append]; rfl
  simp only [OpcodeRow.covers, beq_iff_eq, hand, and_ones, BitVec.and_zero, h]

theorem covers_formatXYN {f : BitVec 4} {x y : Reg} {n : BitVec 4} {v : Word}
    (h : f ++ 0#4 ++ 0#4 ++ 0#4 = v) :
    (OpcodeRow.mk 0xF000 v).covers (formatXYN f x y n) = true := by
  have hand : formatXYN f x y n &&& 0xF000 =
      (f &&& 0xF#4) ++ (x &&& 0#4) ++ (y &&& 0#4) ++ (n &&& 0#4) := by
    rw [← BitVec.and_append, ← BitVec.and_append, ← BitVec.and_append]; rfl
  simp only [OpcodeRow.covers, beq_iff_eq, hand, and_ones, BitVec.and_zero, h]

theorem cls : Statement .cls :=
  ⟨rfl, by change OpcodeRow.mk 0xFFFF 0x00E0 ∈ opcodeTable; decide⟩

theorem ret : Statement .ret :=
  ⟨rfl, by change OpcodeRow.mk 0xFFFF 0x00EE ∈ opcodeTable; decide⟩

theorem exit : Statement .exit :=
  ⟨rfl, by change OpcodeRow.mk 0xFFFF 0x00FD ∈ opcodeTable; decide⟩

theorem low : Statement .low :=
  ⟨rfl, by change OpcodeRow.mk 0xFFFF 0x00FE ∈ opcodeTable; decide⟩

theorem high : Statement .high :=
  ⟨rfl, by change OpcodeRow.mk 0xFFFF 0x00FF ∈ opcodeTable; decide⟩

theorem jp (nnn : Addr) : Statement (.jp nnn) :=
  ⟨covers_formatNNN (by decide), by change OpcodeRow.mk 0xF000 0x1000 ∈ opcodeTable; decide⟩

theorem call (nnn : Addr) : Statement (.call nnn) :=
  ⟨covers_formatNNN (by decide), by change OpcodeRow.mk 0xF000 0x2000 ∈ opcodeTable; decide⟩

theorem seImm (x : Reg) (nn : Byte) : Statement (.seImm x nn) :=
  ⟨covers_formatXNN (by decide), by change OpcodeRow.mk 0xF000 0x3000 ∈ opcodeTable; decide⟩

theorem sneImm (x : Reg) (nn : Byte) : Statement (.sneImm x nn) :=
  ⟨covers_formatXNN (by decide), by change OpcodeRow.mk 0xF000 0x4000 ∈ opcodeTable; decide⟩

theorem seReg (x y : Reg) : Statement (.seReg x y) :=
  ⟨covers_formatXY (by decide), by change OpcodeRow.mk 0xF00F 0x5000 ∈ opcodeTable; decide⟩

theorem ldImm (x : Reg) (nn : Byte) : Statement (.ldImm x nn) :=
  ⟨covers_formatXNN (by decide), by change OpcodeRow.mk 0xF000 0x6000 ∈ opcodeTable; decide⟩

theorem addImm (x : Reg) (nn : Byte) : Statement (.addImm x nn) :=
  ⟨covers_formatXNN (by decide), by change OpcodeRow.mk 0xF000 0x7000 ∈ opcodeTable; decide⟩

theorem ldReg (x y : Reg) : Statement (.ldReg x y) :=
  ⟨covers_formatXY (by decide), by change OpcodeRow.mk 0xF00F 0x8000 ∈ opcodeTable; decide⟩

theorem orReg (x y : Reg) : Statement (.orReg x y) :=
  ⟨covers_formatXY (by decide), by change OpcodeRow.mk 0xF00F 0x8001 ∈ opcodeTable; decide⟩

theorem andReg (x y : Reg) : Statement (.andReg x y) :=
  ⟨covers_formatXY (by decide), by change OpcodeRow.mk 0xF00F 0x8002 ∈ opcodeTable; decide⟩

theorem xorReg (x y : Reg) : Statement (.xorReg x y) :=
  ⟨covers_formatXY (by decide), by change OpcodeRow.mk 0xF00F 0x8003 ∈ opcodeTable; decide⟩

theorem addReg (x y : Reg) : Statement (.addReg x y) :=
  ⟨covers_formatXY (by decide), by change OpcodeRow.mk 0xF00F 0x8004 ∈ opcodeTable; decide⟩

theorem subReg (x y : Reg) : Statement (.subReg x y) :=
  ⟨covers_formatXY (by decide), by change OpcodeRow.mk 0xF00F 0x8005 ∈ opcodeTable; decide⟩

theorem shr (x y : Reg) : Statement (.shr x y) :=
  ⟨covers_formatXY (by decide), by change OpcodeRow.mk 0xF00F 0x8006 ∈ opcodeTable; decide⟩

theorem subn (x y : Reg) : Statement (.subn x y) :=
  ⟨covers_formatXY (by decide), by change OpcodeRow.mk 0xF00F 0x8007 ∈ opcodeTable; decide⟩

theorem shl (x y : Reg) : Statement (.shl x y) :=
  ⟨covers_formatXY (by decide), by change OpcodeRow.mk 0xF00F 0x800E ∈ opcodeTable; decide⟩

theorem sneReg (x y : Reg) : Statement (.sneReg x y) :=
  ⟨covers_formatXY (by decide), by change OpcodeRow.mk 0xF00F 0x9000 ∈ opcodeTable; decide⟩

theorem ldI (nnn : Addr) : Statement (.ldI nnn) :=
  ⟨covers_formatNNN (by decide), by change OpcodeRow.mk 0xF000 0xA000 ∈ opcodeTable; decide⟩

theorem jpV0 (nnn : Addr) : Statement (.jpV0 nnn) :=
  ⟨covers_formatNNN (by decide), by change OpcodeRow.mk 0xF000 0xB000 ∈ opcodeTable; decide⟩

theorem rnd (x : Reg) (nn : Byte) : Statement (.rnd x nn) :=
  ⟨covers_formatXNN (by decide), by change OpcodeRow.mk 0xF000 0xC000 ∈ opcodeTable; decide⟩

theorem drw (x y : Reg) (n : Count) : Statement (.drw x y n) :=
  ⟨covers_formatXYN (by decide), by change OpcodeRow.mk 0xF000 0xD000 ∈ opcodeTable; decide⟩

theorem skp (x : Reg) : Statement (.skp x) :=
  ⟨covers_formatX (by decide), by change OpcodeRow.mk 0xF0FF 0xE09E ∈ opcodeTable; decide⟩

theorem sknp (x : Reg) : Statement (.sknp x) :=
  ⟨covers_formatX (by decide), by change OpcodeRow.mk 0xF0FF 0xE0A1 ∈ opcodeTable; decide⟩

theorem ldVxDt (x : Reg) : Statement (.ldVxDt x) :=
  ⟨covers_formatX (by decide), by change OpcodeRow.mk 0xF0FF 0xF007 ∈ opcodeTable; decide⟩

theorem ldVxK (x : Reg) : Statement (.ldVxK x) :=
  ⟨covers_formatX (by decide), by change OpcodeRow.mk 0xF0FF 0xF00A ∈ opcodeTable; decide⟩

theorem ldDtVx (x : Reg) : Statement (.ldDtVx x) :=
  ⟨covers_formatX (by decide), by change OpcodeRow.mk 0xF0FF 0xF015 ∈ opcodeTable; decide⟩

theorem ldStVx (x : Reg) : Statement (.ldStVx x) :=
  ⟨covers_formatX (by decide), by change OpcodeRow.mk 0xF0FF 0xF018 ∈ opcodeTable; decide⟩

theorem addI (x : Reg) : Statement (.addI x) :=
  ⟨covers_formatX (by decide), by change OpcodeRow.mk 0xF0FF 0xF01E ∈ opcodeTable; decide⟩

theorem ldF (x : Reg) : Statement (.ldF x) :=
  ⟨covers_formatX (by decide), by change OpcodeRow.mk 0xF0FF 0xF029 ∈ opcodeTable; decide⟩

theorem ldHf (x : Reg) : Statement (.ldHf x) :=
  ⟨covers_formatX (by decide), by change OpcodeRow.mk 0xF0FF 0xF030 ∈ opcodeTable; decide⟩

theorem ldB (x : Reg) : Statement (.ldB x) :=
  ⟨covers_formatX (by decide), by change OpcodeRow.mk 0xF0FF 0xF033 ∈ opcodeTable; decide⟩

theorem storeRegs (x : Reg) : Statement (.storeRegs x) :=
  ⟨covers_formatX (by decide), by change OpcodeRow.mk 0xF0FF 0xF055 ∈ opcodeTable; decide⟩

theorem loadRegs (x : Reg) : Statement (.loadRegs x) :=
  ⟨covers_formatX (by decide), by change OpcodeRow.mk 0xF0FF 0xF065 ∈ opcodeTable; decide⟩

end Sys2Proof.Laws.FixedBits
end

