-- ==== Sys2Proof/Laws/Step.lean ====
section
/-! SUPPORT. What a step can do, said once: it is inert, or its fetch faults, or it skips an UNKNOWN
word, or it runs the decoded instruction and commits what the ending says (40_step_cycle.md R101). -/

namespace Sys2Proof.Machine

/-- Every instruction answers a next state: none stops the machine. -/
theorem exec_next (i : Instr) (s : State) : ∃ t, exec i s = .next t := by
  have block : ∀ (i' : Instr) (len : Nat) (d : State), ∃ t, s.withBlock i' len d = .next t := by
    intro i' len d
    rcases s.withBlock_cases i' len d with ⟨_, h⟩ | ⟨_, h⟩ <;> exact ⟨_, h⟩
  have keySkip : ∀ (i' : Instr) (k : Byte) (b : Bool), ∃ t, s.skipOnKey i' k b = .next t := by
    intro i' k b
    rcases s.skipOnKey_cases i' k b with ⟨_, h⟩ | ⟨_, h⟩ <;> exact ⟨_, h⟩
  cases i with
  | ret => simp only [exec, execRet]; split <;> exact ⟨_, rfl⟩
  | call nnn => simp only [exec, execCall]; split <;> exact ⟨_, rfl⟩
  | ldVxK x => simp only [exec, execLdVxK]; split <;> exact ⟨_, rfl⟩
  | drw x y n => exact block ..
  | ldB x => exact block ..
  | storeRegs x => exact block ..
  | loadRegs x => exact block ..
  | skp x => exact keySkip ..
  | sknp x => exact keySkip ..
  | _ => exact ⟨_, rfl⟩

/-- The four things a step can do. -/
theorem step_cases (s : State) :
    (s.enabled = false ∧ step s = .next s) ∨
    (s.enabled = true ∧ 0xFFE < s.pc.toNat ∧ step s = .next s.fetchFault) ∨
    (∃ op e, s.enabled = true ∧ s.fetch = some op ∧ decodeWord op = .error e ∧
      step s = .next (execUnknown op s).tick) ∨
    ∃ op i t, s.enabled = true ∧ s.fetch = some op ∧ decodeWord op = .ok i ∧ exec i s = .next t ∧
      step s = .next (State.commit false (ending i s t) s t) := by
  simp only [step, stepWith]
  cases he : s.enabled with
  | false => exact .inl ⟨rfl, by simp⟩
  | true =>
    simp only [if_true]
    cases hf : s.fetch with
    | none =>
      refine .inr (.inl ⟨trivial, ?_, rfl⟩)
      by_contra h
      simp [State.fetch, h] at hf
    | some op =>
      cases hd : decodeWord op with
      | error e => exact .inr (.inr (.inl ⟨op, e, trivial, rfl, hd, by simp [hd]⟩))
      | ok i =>
        obtain ⟨t, ht⟩ := exec_next i s
        exact .inr (.inr (.inr ⟨op, i, t, trivial, rfl, hd, ht, by
          simp [hd, ht, finishStep, tickWhileWaiting]⟩))

/-- In an enabled state no fault is recorded. -/
theorem State.enabled_iff (s : State) : s.enabled = true ↔ s.running = true ∧ s.fault = none := by
  simp [State.enabled]

/-- The fetch, when the pc is in range: the big-endian word at the pc. -/
theorem State.fetch_eq_some {s : State} (h : s.pc.toNat ≤ 0xFFE) :
    s.fetch = some (wordOfBytes (Memory.read s.mem s.pc.toNat) (Memory.read s.mem (s.pc.toNat + 1))) := by
  simp [State.fetch, show ¬ 0xFFE < s.pc.toNat by omega]

/-- Only Fx0A waits. -/
theorem waitsForKey_iff (i : Instr) (s : State) :
    waitsForKey i s = true ↔ (∃ x, i = .ldVxK x) ∧ s.pressedKeys = [] := by
  cases i <;> simp [waitsForKey]

end Sys2Proof.Machine
end

