-- ==== Sys2Proof/Tests/Slice0.lean ====
section
/-! SUPPORT. The model's own tests, by `decide` on one step of a small state. Expected results are from
spec/95_test_vectors.md (E1 to E10, T0.1 to TS.10) and from the encodings of 30_encoding.md; each is
named in its comment. The witnesses at the end meet the hypotheses of the obligations. -/

namespace Sys2Proof.Tests

open Sys2Proof Sys2Proof.Machine

/-! ## WellFormed smoke: each check refuses something -/

theorem test_smoke_register_index : regInRange 15 = true ∧ regInRange 16 = false := by decide

theorem test_smoke_address : addrInRange 0xFFF = true ∧ addrInRange 0x1000 = false := by decide

theorem test_smoke_immediate : immInRange 255 = true ∧ immInRange 256 = false := by decide

theorem test_smoke_count : countInRange 15 = true ∧ countInRange 16 = false := by decide

/-- One word of each UNKNOWN class of R76. -/
theorem test_smoke_words :
    wordWellFormed 0x0000 = false ∧ wordWellFormed 0x5121 = false ∧ wordWellFormed 0x8018 = false ∧
    wordWellFormed 0x912E = false ∧ wordWellFormed 0xE400 = false ∧ wordWellFormed 0xF000 = false := by
  decide

/-- The decoder rejects the same words, each by its own name. -/
theorem test_unknown_words :
    decodeWord 0x0000 = .error (.unknown 0x0000) ∧ decodeWord 0x00FC = .error (.unknown 0x00FC) ∧
    decodeWord 0x5121 = .error (.unknown 0x5121) ∧ decodeWord 0x801F = .error (.unknown 0x801F) ∧
    decodeWord 0x912E = .error (.unknown 0x912E) ∧ decodeWord 0xE49F = .error (.unknown 0xE49F) ∧
    decodeWord 0xF056 = .error (.unknown 0xF056) := by decide

theorem test_decode_needs_two_bytes :
    decode [0x12] = .error .truncated ∧ decode [0x12, 0x34, 0x56] = .ok (.jp 0x234, [0x56]) := by decide

/-! ## Decoding, each word written out bit by bit from R72 and R74 -/

theorem test_decode_family0 :
    decodeWord 0b0000_0000_1110_0000#16 = .ok .cls ∧ decodeWord 0b0000_0000_1110_1110#16 = .ok .ret ∧
    decodeWord 0b0000_0000_1111_1101#16 = .ok .exit ∧ decodeWord 0b0000_0000_1111_1110#16 = .ok .low ∧
    decodeWord 0b0000_0000_1111_1111#16 = .ok .high := by decide

theorem test_decode_nnn :
    decodeWord 0b0001_1010_0101_1100#16 = .ok (.jp 0b1010_0101_1100) ∧
    decodeWord 0b0010_1010_0101_1100#16 = .ok (.call 0b1010_0101_1100) ∧
    decodeWord 0b1010_1010_0101_1100#16 = .ok (.ldI 0b1010_0101_1100) ∧
    decodeWord 0b1011_1010_0101_1100#16 = .ok (.jpV0 0b1010_0101_1100) := by decide

theorem test_decode_xnn :
    decodeWord 0b0011_1001_0101_1100#16 = .ok (.seImm 0b1001 0b0101_1100) ∧
    decodeWord 0b0100_1001_0101_1100#16 = .ok (.sneImm 0b1001 0b0101_1100) ∧
    decodeWord 0b0110_1001_0101_1100#16 = .ok (.ldImm 0b1001 0b0101_1100) ∧
    decodeWord 0b0111_1001_0101_1100#16 = .ok (.addImm 0b1001 0b0101_1100) ∧
    decodeWord 0b1100_1001_0101_1100#16 = .ok (.rnd 0b1001 0b0101_1100) := by decide

theorem test_decode_xy :
    decodeWord 0b0101_1001_0101_0000#16 = .ok (.seReg 0b1001 0b0101) ∧
    decodeWord 0b1001_1001_0101_0000#16 = .ok (.sneReg 0b1001 0b0101) ∧
    decodeWord 0b1000_1001_0101_0000#16 = .ok (.ldReg 0b1001 0b0101) ∧
    decodeWord 0b1000_1001_0101_0001#16 = .ok (.orReg 0b1001 0b0101) ∧
    decodeWord 0b1000_1001_0101_0010#16 = .ok (.andReg 0b1001 0b0101) ∧
    decodeWord 0b1000_1001_0101_0011#16 = .ok (.xorReg 0b1001 0b0101) := by decide

theorem test_decode_arith :
    decodeWord 0b1000_1001_0101_0100#16 = .ok (.addReg 0b1001 0b0101) ∧
    decodeWord 0b1000_1001_0101_0101#16 = .ok (.subReg 0b1001 0b0101) ∧
    decodeWord 0b1000_1001_0101_0110#16 = .ok (.shr 0b1001 0b0101) ∧
    decodeWord 0b1000_1001_0101_0111#16 = .ok (.subn 0b1001 0b0101) ∧
    decodeWord 0b1000_1001_0101_1110#16 = .ok (.shl 0b1001 0b0101) := by decide

theorem test_decode_draw_and_keys :
    decodeWord 0b1101_1001_0101_1100#16 = .ok (.drw 0b1001 0b0101 0b1100) ∧
    decodeWord 0b1110_1001_1001_1110#16 = .ok (.skp 0b1001) ∧
    decodeWord 0b1110_1001_1010_0001#16 = .ok (.sknp 0b1001) := by decide

theorem test_decode_familyF :
    decodeWord 0b1111_1001_0000_0111#16 = .ok (.ldVxDt 0b1001) ∧
    decodeWord 0b1111_1001_0000_1010#16 = .ok (.ldVxK 0b1001) ∧
    decodeWord 0b1111_1001_0001_0101#16 = .ok (.ldDtVx 0b1001) ∧
    decodeWord 0b1111_1001_0001_1000#16 = .ok (.ldStVx 0b1001) ∧
    decodeWord 0b1111_1001_0001_1110#16 = .ok (.addI 0b1001) ∧
    decodeWord 0b1111_1001_0010_1001#16 = .ok (.ldF 0b1001) ∧
    decodeWord 0b1111_1001_0011_0000#16 = .ok (.ldHf 0b1001) ∧
    decodeWord 0b1111_1001_0011_0011#16 = .ok (.ldB 0b1001) ∧
    decodeWord 0b1111_1001_0101_0101#16 = .ok (.storeRegs 0b1001) ∧
    decodeWord 0b1111_1001_0110_0101#16 = .ok (.loadRegs 0b1001) := by decide

/-- The host's numbering of an instruction's bits: the word as a number. -/
theorem test_decode_table_word :
    decodeTableWord 16 0x8346 = some (.shr 3 4) ∧ decodeTableWord 16 0x5121 = none := by decide

/-! ## One step -/

/-- The state an answer leaves. -/
def after : Result → State
  | .next t => t
  | .fault _ => State.reset
  | .refused _ => State.reset

/-- The state after one step that fetches the word. -/
def ran (w : Nat) (s : State) : State := after (step (s.withFetchWord 16 w))

/-- The reset state with V0 and V1 set. -/
def pair (a b : Byte) : State := (State.reset.setV 0 a).setV 1 b

/-- T0.1: 00E0 clears the active plane, sets draw_pending and leaves the inactive plane. -/
theorem test_cls :
    let s := ran 0x00E0 { State.reset with
      pstd := State.reset.pstd.toggle 63 31, pext := State.reset.pext.toggle 5 5 }
    s.pstd.cell 63 31 = false ∧ s.pext.cell 5 5 = true ∧ s.drawPending = true ∧ s.pc = 0x202 := by decide

/-- T0.4: the return adds 2 to the popped address, and the slot keeps it. -/
theorem test_ret :
    let s := ran 0x00EE { State.reset with pc := 0x300, sp := 1, stack := State.reset.stack.set 0 0x204 }
    s.sp = 0 ∧ s.pc = 0x206 ∧ s.stack[0] = 0x204 := by decide

/-- T0.5 and TS.9: an empty stack faults, and the fault does not tick. -/
theorem test_ret_underflow :
    let s := ran 0x00EE { State.reset with dt := 5 }
    s.fault = some ⟨.stackUnderflow, 0x200, some 0x00EE, none⟩ ∧ s.pc = 0x200 ∧ s.dt = 5 := by decide

/-- T0.7 and T0.8: EXIT ticks once more, and nothing happens after it. -/
theorem test_exit :
    let s := ran 0x00FD { State.reset with pc := 0x20C, dt := 3 }
    s.running = false ∧ s.pc = 0x20E ∧ s.dt = 2 ∧ after (step s) = s := by decide

/-- T0.9. -/
theorem test_low : (ran 0x00FE { State.reset with mode := .extended }).mode = .standard := by decide

/-- T0.10. -/
theorem test_high : (ran 0x00FF State.reset).mode = .extended := by decide

/-- T5.4 and TS.6: an UNKNOWN word is reported before the silence cue, and falls through. -/
theorem test_unknown :
    let s := ran 0x5121 { State.reset with st := 1 }
    s.eventStream = [.unknownOpcode 0x5121, .silence] ∧ s.pc = 0x202 ∧ s.st = 0 := by decide

/-- R100: four upper-case digits, leading zeros kept. -/
theorem test_report_digits :
    reportDigits 0x0ABC = ['0', 'A', 'B', 'C'] ∧ reportDigits 0x0000 = ['0', '0', '0', '0'] := by decide

/-- T1.1 and TS.4. -/
theorem test_jp : (ran 0x1234 { State.reset with st := 3 }).pc = 0x234 ∧
    (ran 0x1234 { State.reset with st := 3 }).st = 2 := by decide

/-- T2.1: CALL pushes its own address. -/
theorem test_call :
    let s := ran 0x220A { State.reset with pc := 0x204 }
    s.stack[0] = 0x204 ∧ s.sp = 1 ∧ s.pc = 0x20A := by decide

/-- T2.3: a full stack faults. -/
theorem test_call_overflow :
    let s := ran 0x2400 { State.reset with pc := 0x400, sp := 16 }
    s.fault = some ⟨.stackOverflow, 0x400, some 0x2400, none⟩ ∧ s.sp = 16 ∧ s.pc = 0x400 := by decide

/-- T3.1 and T3.2. -/
theorem test_seImm : (ran 0x3008 (pair 8 0)).pc = 0x204 ∧ (ran 0x3008 (pair 7 0)).pc = 0x202 := by decide

/-- T4.1 and T4.2. -/
theorem test_sneImm : (ran 0x4311 (State.reset.setV 3 0x10)).pc = 0x204 ∧
    (ran 0x4311 (State.reset.setV 3 0x11)).pc = 0x202 := by decide

/-- T5.1 and T5.2, on V0 and V1. -/
theorem test_seReg : (ran 0x5010 (pair 0x33 0x33)).pc = 0x204 ∧
    (ran 0x5010 (pair 0x33 0x34)).pc = 0x202 := by decide

/-- T9.1 and T9.2, on V0 and V1. -/
theorem test_sneReg : (ran 0x9010 (pair 1 2)).pc = 0x204 ∧ (ran 0x9010 (pair 2 2)).pc = 0x202 := by decide

/-- T6.1. -/
theorem test_ldImm : (ran 0x6A42 State.reset).getV 0xA = 0x42 := by decide

/-- T7.2: the sum wraps and no flag is written. -/
theorem test_addImm :
    let s := ran 0x7201 ((State.reset.setV 2 0xFF).setV 0xF 5)
    s.getV 2 = 0 ∧ s.getV 0xF = 5 := by decide

/-- T8.1. -/
theorem test_ldReg : (ran 0x8010 (pair 0 0x3C)).getV 0 = 0x3C := by decide

/-- T8.2: VF is left alone. -/
theorem test_orReg :
    let s := ran 0x8011 ((pair 0x0F 0xF0).setV 0xF 5)
    s.getV 0 = 0xFF ∧ s.getV 0xF = 5 := by decide

/-- T8.3. -/
theorem test_andReg : (ran 0x8012 (pair 0x3C 0x0F)).getV 0 = 0x0C := by decide

/-- T8.4. -/
theorem test_xorReg : (ran 0x8013 (pair 0x3C 0x0F)).getV 0 = 0x33 := by decide

/-- T8.6 (the source's E2). -/
theorem test_addReg :
    let s := ran 0x8014 (pair 0xFF 0x01)
    s.getV 0 = 0x00 ∧ s.getV 0xF = 1 := by decide

/-- T8.24 and T8.33: with x = F the sum is lost; with y = F the old VF is read. -/
theorem test_addReg_flag :
    (ran 0x8F14 ((pair 0 0x20).setV 0xF 0xF0)).getV 0xF = 1 ∧
    (ran 0x80F4 ((pair 1 0).setV 0xF 0xFF)).getV 0 = 0 ∧
    (ran 0x80F4 ((pair 1 0).setV 0xF 0xFF)).getV 0xF = 1 := by decide

/-- T8.10 (the source's E3). -/
theorem test_subReg :
    let s := ran 0x8015 (pair 0x01 0x02)
    s.getV 0 = 0xFF ∧ s.getV 0xF = 0 := by decide

/-- T8.11: equal is no borrow. -/
theorem test_subReg_equal :
    let s := ran 0x8015 (pair 0x02 0x02)
    s.getV 0 = 0x00 ∧ s.getV 0xF = 1 := by decide

/-- T8.14: the shift reads Vx, not Vy. -/
theorem test_shr :
    let s := ran 0x8016 (pair 0x03 0xF0)
    s.getV 0 = 0x01 ∧ s.getV 0xF = 1 := by decide

/-- T8.28. -/
theorem test_shr_flag : (ran 0x8F06 (State.reset.setV 0xF 0x03)).getV 0xF = 0 := by decide

/-- T8.17. -/
theorem test_subn :
    let s := ran 0x8017 (pair 0x02 0x01)
    s.getV 0 = 0xFF ∧ s.getV 0xF = 0 := by decide

/-- T8.20. -/
theorem test_shl :
    let s := ran 0x801E (pair 0x81 0)
    s.getV 0 = 0x02 ∧ s.getV 0xF = 1 := by decide

/-- T8.31. -/
theorem test_shl_flag : (ran 0x8F0E (State.reset.setV 0xF 0xC0)).getV 0xF = 2 := by decide

/-- TA.1. -/
theorem test_ldI : (ran 0xA300 State.reset).ireg = 0x300 := by decide

/-- TB.2 and TB.4: V0 and no other register, and no reduction to 12 bits. -/
theorem test_jpV0 : (ran 0xB300 ((pair 1 0).setV 3 0x40)).pc = 0x301 ∧
    (ran 0xBFFF (pair 0xFF 0)).pc = 0x10FE := by decide

/-- TC.2: whatever byte is drawn, a zero mask leaves 0. -/
theorem test_rnd_masked (s : State) : (after (exec (.rnd 3 0) s)).getV 3 = 0 := by
  simp [after, exec, execRnd]

/-- TD.3: the row wraps at the right edge; the default glyph 0 starts with F0. -/
theorem test_drw_wraps :
    let s := ran 0xD011 (pair 62 0)
    s.pstd.cell 62 0 = true ∧ s.pstd.cell 63 0 = true ∧ s.pstd.cell 0 0 = true ∧
    s.pstd.cell 1 0 = true ∧ s.pstd.cell 2 0 = false ∧ s.getV 0xF = 0 ∧ s.drawPending = true := by decide

/-- TD.6 and TD.7 in one step: in extended mode a sprite row of E0 at (126, 63) meets a set cell. -/
theorem test_drw_collides :
    let s := ran 0xD011 { (pair 126 63) with
      mode := .extended, ireg := 0x300, mem := [(0x300, 0xE0)], pext := State.reset.pext.toggle 127 63 }
    s.pext.cell 126 63 = true ∧ s.pext.cell 127 63 = false ∧ s.pext.cell 0 63 = true ∧
    s.getV 0xF = 1 ∧ s.pstd = State.reset.pstd := by decide

/-- TD.11 and TD.13: past memory a row faults and writes nothing, and no row reads nothing. -/
theorem test_drw_past_memory :
    (ran 0xD123 { State.reset with ireg := 0xFFE }).fault =
      some ⟨.memOutOfRange, 0x200, some 0xD123, some 0x1000⟩ ∧
    (ran 0xD123 { State.reset with ireg := 0xFFE }).drawPending = false ∧
    (ran 0xD120 { State.reset with ireg := 0x1005 }).fault = none := by decide

/-- TE.1 and TE.2. -/
theorem test_skp :
    (ran 0xE49E ((State.reset.setV 4 7).setKey 7 true)).pc = 0x204 ∧
    (ran 0xE49E (State.reset.setV 4 7)).pc = 0x202 := by decide

/-- TE.5. -/
theorem test_skp_no_such_key : (ran 0xE49E (State.reset.setV 4 0x10)).fault =
    some ⟨.keyOutOfRange, 0x200, some 0xE49E, some 0x10⟩ := by decide

/-- TE.3 and TE.4. -/
theorem test_sknp :
    (ran 0xE4A1 (State.reset.setV 4 7)).pc = 0x204 ∧
    (ran 0xE4A1 ((State.reset.setV 4 7).setKey 7 true)).pc = 0x202 := by decide

/-- TE.6. -/
theorem test_sknp_no_such_key : (ran 0xE4A1 (State.reset.setV 4 0xFF)).fault =
    some ⟨.keyOutOfRange, 0x200, some 0xE4A1, some 0xFF⟩ := by decide

/-- TF.1. -/
theorem test_ldVxDt :
    let s := ran 0xF307 { State.reset with dt := 0x20 }
    s.getV 3 = 0x20 ∧ s.dt = 0x1F := by decide

/-- The state of TF.3: the key wait at 0x204 with both timers running. -/
def waiting : State := { State.reset with pc := 0x204, dt := 3, st := 2, mem := [(0x204, 0xF1), (0x205, 0x0A)] }

/-- TF.3 and TF.6: a waiting step changes nothing, or only the timers with TICK_WHILE_WAITING. -/
theorem test_ldVxK_waits : after (step waiting) = waiting ∧
    (after (stepWith true waiting)).pc = 0x204 ∧ (after (stepWith true waiting)).dt = 2 ∧
    (after (stepWith true waiting)).st = 1 := by decide

/-- TF.4: the one pressed key is stored. -/
theorem test_ldVxK_stores :
    let s := after (step (waiting.setKey 7 true))
    s.getV 1 = 7 ∧ s.pc = 0x206 ∧ s.dt = 2 ∧ s.st = 1 := by decide

/-- TF.7. -/
theorem test_ldDtVx : (ran 0xF415 (State.reset.setV 4 5)).dt = 4 := by decide

/-- TF.9 and TF.10. -/
theorem test_ldStVx :
    (ran 0xF218 (State.reset.setV 2 0x10)).st = 0x0F ∧
    (ran 0xF218 (State.reset.setV 2 0x10)).eventStream = [] ∧
    (ran 0xF218 (State.reset.setV 2 0x01)).eventStream = [.silence] := by decide

/-- TF.13. -/
theorem test_addI :
    let s := ran 0xF01E { (pair 1 0) with ireg := 0xFFF }
    s.ireg = 0x1000 ∧ s.getV 0xF = 1 := by decide

/-- TF.14: the flag comes from the stored 16-bit I. -/
theorem test_addI_wraps :
    let s := ran 0xF01E { (pair 1 0) with ireg := 0xFFFF }
    s.ireg = 0x0000 ∧ s.getV 0xF = 0 := by decide

/-- TF.16 and TF.17: no masking. -/
theorem test_ldF : (ran 0xF629 (State.reset.setV 6 0x0A)).ireg = 0x032 ∧
    (ran 0xF629 (State.reset.setV 6 0xFF)).ireg = 0x4FB := by decide

/-- TF.18 and TF.19. -/
theorem test_ldHf : (ran 0xF130 (pair 0 0x03)).ireg = 0x01E ∧
    (ran 0xF130 (pair 0 0xFF)).ireg = 0x9F6 := by decide

/-- TF.20. -/
theorem test_ldB :
    let s := ran 0xF033 { (pair 254 0) with ireg := 0x300 }
    Memory.read s.mem 0x300 = 2 ∧ Memory.read s.mem 0x301 = 5 ∧ Memory.read s.mem 0x302 = 4 ∧
    s.ireg = 0x300 := by decide

/-- TF.23: nothing is stored when the last digit would lie past memory. -/
theorem test_ldB_past_memory :
    let s := ran 0xF033 { (pair 9 0) with ireg := 0xFFE, mem := [(0xFFE, 0x77)] }
    s.fault = some ⟨.memOutOfRange, 0x200, some 0xF033, some 0x1000⟩ ∧
    Memory.read s.mem 0xFFE = 0x77 := by decide

/-- TF.24. -/
theorem test_storeRegs :
    let s := ran 0xF155 { (pair 0x11 0x22) with ireg := 0x400 }
    Memory.read s.mem 0x400 = 0x11 ∧ Memory.read s.mem 0x401 = 0x22 ∧ Memory.read s.mem 0x402 = 0 ∧
    s.ireg = 0x400 := by decide

/-- TF.26. -/
theorem test_storeRegs_past_memory : (ran 0xFF55 { State.reset with ireg := 0xFF1 }).fault =
    some ⟨.memOutOfRange, 0x200, some 0xFF55, some 0x1000⟩ := by decide

/-- TF.29: glyph 0 of the default font. -/
theorem test_loadRegs :
    let s := ran 0xF465 State.reset
    s.getV 0 = 0xF0 ∧ s.getV 1 = 0x90 ∧ s.getV 2 = 0x90 ∧ s.getV 3 = 0x90 ∧ s.getV 4 = 0xF0 ∧
    s.getV 5 = 0 := by decide

/-- TF.31. -/
theorem test_loadRegs_past_memory : (ran 0xF065 { State.reset with ireg := 0x1000 }).fault =
    some ⟨.memOutOfRange, 0x200, some 0xF065, some 0x1000⟩ := by decide

/-- TS.7 and T1.4: the last fetch in memory, and a fetch at an odd address. -/
theorem test_fetch_edges :
    let s := after (step { State.reset with pc := 0xFFE, mem := [(0xFFE, 0x60), (0xFFF, 0x01)] })
    let t := after (step { State.reset with pc := 0x201, mem := [(0x201, 0x60), (0x202, 0x2A)] })
    s.getV 0 = 1 ∧ s.pc = 0x1000 ∧ t.getV 0 = 0x2A ∧ t.pc = 0x203 := by decide

/-- TS.8. -/
theorem test_fetch_past_memory : (after (step { State.reset with pc := 0xFFF })).fault =
    some ⟨.fetchOutOfRange, 0xFFF, none, some 0xFFF⟩ := by decide

/-- TS.1 and TS.3. -/
theorem test_tick :
    (ran 0x6000 { State.reset with dt := 1, st := 1 }).dt = 0 ∧
    (ran 0x6000 { State.reset with dt := 1, st := 1 }).eventStream = [.silence] ∧
    (ran 0x6000 { State.reset with st := 5 }).eventStream = [] := by decide

/-! ## The host's transactions -/

/-- An image of at most 3584 bytes loads. -/
theorem load_fits (p : Parameters) (img : List Byte) (h : img.length ≤ 3584) :
    ∃ d, (Session.construct p).transact p (.load img) = .next d :=
  ⟨_, by simp only [Session.transact, Session.construct, Config.progMax, Nat.not_lt.mpr h]; rfl⟩

/-- A longer image fails. -/
theorem load_too_large (p : Parameters) (img : List Byte) (h : 3584 < img.length) :
    (Session.construct p).transact p (.load img) = .fault (.imageTooLarge img.length) := by
  simp only [Session.transact, Session.construct, Config.progMax, h]; rfl

/-- Load at the limits of E7: 0, 3584 and 3585 bytes. -/
theorem test_load_sizes (p : Parameters) :
    (∃ d, (Session.construct p).transact p (.load []) = .next d) ∧
    (∃ d, (Session.construct p).transact p (.load (List.replicate 3584 0)) = .next d) ∧
    (Session.construct p).transact p (.load (List.replicate 3585 0)) =
      .fault (.imageTooLarge (List.replicate 3585 (0 : Byte)).length) :=
  ⟨load_fits p _ (Nat.zero_le _), load_fits p _ (by rw [List.length_replicate]),
    load_too_large p _ (by rw [List.length_replicate]; omega)⟩

/-- Load copies the bytes to 0x200; after a Step it has no transition. -/
theorem test_load :
    Session.transact .defaults ⟨State.reset, false⟩ (.load [0x12, 0x00]) =
      .next ⟨{ State.reset with mem := [(0x200, 0x12)] }, false⟩ ∧
    Session.transact .defaults ⟨State.reset, true⟩ (.load []) = .refused .loadAfterStep := ⟨rfl, rfl⟩

/-- A FONT whose only nonzero byte is the fifth. -/
def oneByteFont : Vector Byte 80 := (Vector.replicate 80 0x00).set 4 0xFF

/-- R36: a machine built with another FONT holds its bytes. -/
theorem test_construct_font :
    Memory.read (State.construct oneByteFont).mem 4 = 0xFF ∧
    Memory.read (State.construct oneByteFont).mem 0 = 0x00 ∧
    Memory.read (State.construct oneByteFont).mem 0x4F = 0x00 :=
  ⟨(Memory.read_construct _ 4).trans rfl, (Memory.read_construct _ 0).trans rfl,
    (Memory.read_construct _ 0x4F).trans rfl⟩

/-- A second Construct puts the state back and takes further draws (log entry 2). -/
theorem test_reconstruct (p : Parameters) (b : Bool) :
    Session.transact p ⟨{ State.reset with pc := 0x20E, running := false, draws := 3 }, b⟩ .construct =
      .next ⟨{ State.construct p.font with draws := 3 }, false⟩ := rfl

/-- TF.6 by the host: a Step of a machine with TICK_WHILE_WAITING ticks while it waits. -/
theorem test_transact_ticks :
    Session.transact ⟨Parameters.defaults.font, true⟩ ⟨waiting, false⟩ .step =
      .next ⟨((waiting.setDt 2).setSt 1), true⟩ ∧
    Session.transact .defaults ⟨waiting, false⟩ .step = .next ⟨waiting, true⟩ := ⟨rfl, rfl⟩

/-- SetKey, Quit, AckFrame (R217 to R219). -/
theorem test_host_controls :
    (State.reset.setKey 0xF true).keys[15] = true ∧ State.reset.quit.running = false ∧
    State.ackFrame { State.reset with drawPending := true } = State.reset := by decide

/-- What the host reads: the active plane's dimensions follow the mode (R33, R220). -/
theorem test_observe :
    State.reset.observe.width = 64 ∧ State.reset.observe.height = 32 ∧
    (State.observe { State.reset with mode := .extended }).width = 128 ∧
    (State.observe { State.reset with mode := .extended }).height = 64 := by decide

/-! ## Witnesses: a state and operands that meet the hypotheses of each obligation together, one for
each clause, at the edges of its range -/

theorem witness_DecodeOfEncodeIsTheInstruction : (Instr.drw 15 15 15).wellFormed = true := by decide

theorem witness_EncodeOfDecodeIsTheWord : decodeWord 0xFF65 = .ok (.loadRegs 15) := by decide

theorem witness_WordDecodesIffSomeRowMatches :
    wordWellFormed 0x8FFE = true ∧ decodeWord 0x8FFE = .ok (.shl 15 15) ∧
    wordWellFormed 0x8FFF = false := by decide

/-- The reset state whose next fetch reads the word. -/
def facing (op : Word) : State := State.reset.placeWord op

/-- An instruction that faults, one that waits and one that is done. -/
theorem witness_StepRunsTheDecodedInstruction :
    ((facing 0x00EE).running = true ∧ (facing 0x00EE).fault = none ∧
      (facing 0x00EE).pc.toNat ≤ 0xFFE ∧ decode [0x00, 0xEE] = .ok (.ret, []) ∧
      Memory.read (facing 0x00EE).mem 0x200 = 0x00 ∧ Memory.read (facing 0x00EE).mem 0x201 = 0xEE ∧
      (after (exec .ret (facing 0x00EE))).fault ≠ none) ∧
    (decode [0xF1, 0x0A] = .ok (.ldVxK 1, []) ∧ Memory.read waiting.mem 0x204 = 0xF1 ∧
      Memory.read waiting.mem 0x205 = 0x0A ∧ (after (exec (.ldVxK 1) waiting)).fault = none ∧
      waitsForKey (.ldVxK 1) waiting = true) ∧
    (decode [0x6A, 0x42] = .ok (.ldImm 0xA 0x42, []) ∧
      Memory.read (facing 0x6A42).mem 0x200 = 0x6A ∧ Memory.read (facing 0x6A42).mem 0x201 = 0x42 ∧
      (after (exec (.ldImm 0xA 0x42) (facing 0x6A42))).fault = none ∧
      waitsForKey (.ldImm 0xA 0x42) (facing 0x6A42) = false) := by decide

theorem witness_StepIsInertWhenHaltedOrFaulted :
    State.reset.halt.running = false ∧ (ran 0x00EE State.reset).fault ≠ none := by decide

theorem witness_FetchPastMemoryFaults :
    let s := State.reset.jump 0xFFF
    s.running = true ∧ s.fault = none ∧ 0xFFE < s.pc.toNat := by decide

/-- With ST at 1 the report is followed by the cue, with ST at 2 it is not. -/
theorem witness_UnknownWordIsReportedAndSkipped :
    let s := (facing 0x5121).setSt 1
    let u := (facing 0x5121).setSt 2
    s.running = true ∧ s.fault = none ∧ s.fetch = some 0x5121 ∧
    decodeWord 0x5121 = .error (.unknown 0x5121) ∧ (after (step s)).st.toNat = 0 ∧
    u.fetch = some 0x5121 ∧ (after (step u)).st.toNat ≠ 0 := by decide

theorem witness_FetchIsBigEndian : (State.reset.jump 0xFFE).pc.toNat ≤ 0xFFE := by decide

theorem witness_TickCountsDownAndCuesSilence :
    (State.reset.setSt 1).tick.st.toNat = 0 ∧ (State.reset.setSt 2).tick.st.toNat ≠ 0 := by decide

theorem witness_WaitingStepHoldsTheTimers :
    waiting.running = true ∧ waiting.fault = none ∧ waiting.fetch = some 0xF10A ∧
    decodeWord 0xF10A = .ok (.ldVxK 1) ∧ ∀ k, (h : k < 16) → waiting.keys[k] = false := by decide

theorem witness_FaultingStepWritesOnlyTheRecord :
    let s := (facing 0xE09E).setV 0 0x10
    s.running = true ∧ s.fault = none ∧ step s = .next (after (step s)) ∧
    (after (step s)).fault = some ⟨.keyOutOfRange, 0x200, some 0xE09E, some 0x10⟩ :=
  ⟨rfl, rfl, rfl, rfl⟩

/-- A step that stores, from a memory with cells listed at both ends of the space. -/
theorem witness_StepKeepsMemoryCanonical :
    let s := State.placeWord ((State.reset.setI 0xFFD).setMem [(0x000, 0x01), (0xFFF, 0x80)]) 0xF033
    MemoryCanonical s ∧ step s = .next (after (step s)) := ⟨rfl, rfl⟩

/-- The largest jump, and a return to the last fetched address. -/
theorem witness_StepKeepsPcInReach :
    (PcInReach ((facing 0xBFFF).setV 0 0xFF) ∧
      step ((facing 0xBFFF).setV 0 0xFF) = .next (after (step ((facing 0xBFFF).setV 0 0xFF)))) ∧
    PcInReach { facing 0x00EE with sp := 1, stack := Vector.replicate 16 0xFFE } :=
  ⟨⟨⟨by decide, by decide⟩, rfl⟩, by decide, by decide⟩

/-- A step that faults from a state with no record. -/
theorem witness_StepKeepsFaultExplained :
    FaultExplained (facing 0x00EE) ∧ step (facing 0x00EE) = .next (after (step (facing 0x00EE))) ∧
    (after (step (facing 0x00EE))).fault ≠ none :=
  ⟨fun f h => absurd (show (none : Option FaultRecord) = some f from h) (by simp), rfl, by decide⟩

/-- Images of 0, 3584 and 3585 bytes before the first Step. -/
theorem witness_LoadCopiesTheImage :
    (Session.construct .defaults).stepped = false ∧ ([] : List Byte).length ≤ 3584 ∧
    (List.replicate 3584 (0 : Byte)).length ≤ 3584 ∧
    3584 < (List.replicate 3585 (0 : Byte)).length := by
  refine ⟨rfl, by decide, ?_, ?_⟩ <;> rw [List.length_replicate]
  omega

theorem witness_HostMovesWriteTheirOwnFlag : (Session.mk State.reset true).stepped = true := rfl

theorem witness_EmptyImageRunsToTheFetchFault : (1792 : Nat) ≤ 1792 := by decide

theorem witness_OnlyNamedRegistersChange :
    exec (.addReg 0 1) (pair 0xFF 1) = .next (after (exec (.addReg 0 1) (pair 0xFF 1))) ∧
    ¬ regMayChange (.addReg 0 1) 1 ∧ ¬ regMayChange (.loadRegs 14) 15 :=
  ⟨rfl, by unfold regMayChange; decide, by unfold regMayChange; decide⟩

/-- The addresses just outside a block store. -/
theorem witness_OnlyStoredBytesChange :
    let s := State.reset.setI 0x400
    exec (.storeRegs 1) s = .next (after (exec (.storeRegs 1) s)) ∧
    ¬ byteMayChange (.storeRegs 1) s 0x3FF ∧ ¬ byteMayChange (.storeRegs 1) s 0x402 ∧
    ¬ byteMayChange (.ldB 0) s 0x403 :=
  ⟨rfl, by simp [byteMayChange, State.setI], by simp [byteMayChange, State.setI],
    by simp [byteMayChange, State.setI]⟩

theorem witness_OnlyNamedInstructionsWriteSpecialState :
    exec (.jp 0xFFF) State.reset = .next (after (exec (.jp 0xFFF) State.reset)) ∧
    (∀ nnn x, Instr.jp 0xFFF ≠ .ldI nnn ∧ Instr.jp 0xFFF ≠ .addI x ∧ Instr.jp 0xFFF ≠ .ldF x ∧
      Instr.jp 0xFFF ≠ .ldHf x) ∧ (∀ x, Instr.jp 0xFFF ≠ .ldDtVx x) ∧
    (∀ x, Instr.jp 0xFFF ≠ .ldStVx x) ∧ (∀ nnn, Instr.jp 0xFFF ≠ .call nnn ∧ Instr.jp 0xFFF ≠ .ret) ∧
    (Instr.jp 0xFFF ≠ .low ∧ Instr.jp 0xFFF ≠ .high) ∧ Instr.jp 0xFFF ≠ .exit :=
  ⟨rfl, by simp, by simp, by simp, by simp, by simp, by simp⟩

/-- A draw in either mode, with draw_pending set. -/
theorem witness_InactivePlaneIsNeverTouched :
    (exec .low State.reset = .next (after (exec .low State.reset)) ∧ Instr.low ≠ .cls ∧
      ∀ x y n, Instr.low ≠ .drw x y n) ∧
    (step (facing 0xD015) = .next (after (step (facing 0xD015))) ∧ (facing 0xD015).mode = .standard) ∧
    (State.setMode (facing 0xD015) .extended).markDrawn.mode = .extended ∧
    (State.setMode (facing 0xD015) .extended).markDrawn.drawPending = true :=
  ⟨⟨rfl, by simp, by simp⟩, ⟨rfl, rfl⟩, rfl, rfl⟩

theorem witness_StepNeverRestartsOrPressesKeys :
    step State.reset.halt = .next State.reset.halt ∧ State.reset.halt.running = false ∧
    step (ran 0x00EE State.reset) = .next (ran 0x00EE State.reset) ∧
    (ran 0x00EE State.reset).fault = some ⟨.stackUnderflow, 0x200, some 0x00EE, none⟩ :=
  ⟨rfl, rfl, rfl, rfl⟩

theorem witness_StepOnlyAppendsEvents :
    step (facing 0x5121) = .next (after (step (facing 0x5121))) ∧
    Event.unknownOpcode 0x5121 ∈ (after (step (facing 0x5121))).eventStream := ⟨rfl, by decide⟩

theorem witness_OnlyKeyInstructionsReadKeys :
    (∀ x, Instr.ldI 0x300 ≠ .skp x ∧ Instr.ldI 0x300 ≠ .sknp x ∧ Instr.ldI 0x300 ≠ .ldVxK x) ∧
    exec (.ldI 0x300) State.reset = .next (after (exec (.ldI 0x300) State.reset)) :=
  ⟨by simp, rfl⟩

theorem witness_NoInstructionReadsTheSoundTimer :
    (exec (.ldVxDt 1) State.reset = .next (after (exec (.ldVxDt 1) State.reset)) ∧
      ∀ x, Instr.ldVxDt 1 ≠ .ldStVx x) ∧
    exec (.ldStVx 1) State.reset = .next (after (exec (.ldStVx 1) State.reset)) ∧
    ∃ x, Instr.ldStVx 1 = .ldStVx x := ⟨⟨rfl, by simp⟩, rfl, 1, rfl⟩

/-- One occupied slot; the slots above it differ. -/
theorem witness_StaleStackSlotsAreNeverRead :
    let s := { State.reset with sp := 1, stack := State.reset.stack.set 0 0x204 }
    let slots := (Vector.replicate 16 (0xABC : Word)).set 0 0x204
    (∀ j, (h : j < 16) → j < s.sp.val → slots[j] = s.stack[j]) ∧
    exec .ret s = .next (after (exec .ret s)) ∧ slots ≠ s.stack := ⟨by decide, rfl, by decide⟩

theorem witness_ClearZeroesTheActivePlane :
    State.reset.mode = .standard ∧ (State.reset.setMode .extended).mode = .extended := by decide

/-- An empty stack, one occupied slot and a full stack. -/
theorem witness_ReturnGoesPastTheCallSite :
    State.reset.sp.val = 0 ∧ 0 < ({ State.reset with sp := 1 } : State).sp.val ∧
    0 < ({ State.reset with sp := 16 } : State).sp.val := by decide

/-- A full stack and one with the last slot free. -/
theorem witness_CallPushesItsOwnAddress :
    ({ State.reset with sp := 16 } : State).sp.val = 16 ∧
    ({ State.reset with sp := 15 } : State).sp.val < 16 := by decide

theorem witness_CallThenReturnComesBack :
    ({ State.reset with sp := 15 } : State).sp.val < 16 ∧
    14 ≠ ({ State.reset with sp := 15 } : State).sp.val := by decide

theorem witness_ImmediateSkipsCompare :
    ((pair 8 7).getV 0).toNat = (8 : Byte).toNat ∧ ((pair 8 7).getV 1).toNat ≠ (8 : Byte).toNat := by decide

theorem witness_RegisterSkipsCompare :
    ((pair 3 3).getV 0).toNat = ((pair 3 3).getV 1).toNat ∧
    ((pair 3 4).getV 0).toNat ≠ ((pair 3 4).getV 1).toNat := by decide

/-- The sums 256 and 255, and a destination that is VF or not. -/
theorem witness_AddWritesSumThenCarry :
    255 < ((pair 0xFF 1).getV 0).toNat + ((pair 0xFF 1).getV 1).toNat ∧
    ((pair 0xFE 1).getV 0).toNat + ((pair 0xFE 1).getV 1).toNat ≤ 255 ∧ (0 : Reg) ≠ Reg.flag := by decide

/-- A borrow, equal operands, and a destination that is not VF. -/
theorem witness_SubtractionsWriteDifferenceThenNoBorrow :
    ((pair 1 2).getV 0).toNat < ((pair 1 2).getV 1).toNat ∧
    ((pair 2 2).getV 1).toNat ≤ ((pair 2 2).getV 0).toNat ∧
    ((pair 2 1).getV 1).toNat < ((pair 2 1).getV 0).toNat ∧
    ((pair 2 2).getV 0).toNat ≤ ((pair 2 2).getV 1).toNat ∧ (0 : Reg) ≠ Reg.flag := by decide

theorem witness_ShiftsWriteFlagThenShift : (14 : Reg) ≠ Reg.flag ∧ (15 : Reg) = Reg.flag := by decide

/-- The last sprite byte at 0xFFF; a pixel that lands on a set cell, and one on a clear cell; both
modes. -/
theorem witness_DrawTogglesTheSpritesCells :
    (∀ k, k < (1 : Count).toNat → (State.reset.setI 0xFFF).ireg.toNat + k ≤ 0xFFF) ∧
    SpriteCovers State.reset 62 0 1 0 0 ∧ ¬ SpriteCovers State.reset 62 0 1 2 0 ∧
    ({ State.reset with pstd := State.reset.pstd.toggle 0 0 } : State).activeCell 0 0 = true ∧
    (∀ c r, SpriteCovers State.reset 62 0 1 c r → State.reset.activeCell c r = false) ∧
    (State.reset.setMode .extended).mode = .extended := by
  refine ⟨by decide, ⟨0, by decide, 2, by decide, rfl, rfl, rfl⟩, ?_, by decide, fun c r _ => ?_, rfl⟩
  · rintro ⟨dr, hdr, dc, hdc, hbit, hc, _⟩
    obtain rfl : dr = 0 := by omega
    have hdc4 : dc = 4 := by simp only [State.width, State.reset] at hc; omega
    subst hdc4
    exact absurd hbit (by decide)
  · exact Plane.cell_clear c r

/-- The lowest and the highest I that one row of a sprite meets past memory. -/
theorem witness_DrawPastMemoryFaults :
    0 < (1 : Count).toNat ∧ 0xFFF < (State.reset.setI 0x1000).ireg.toNat + (1 : Count).toNat - 1 ∧
    0xFFF < (State.reset.setI 0xFFFF).ireg.toNat + (15 : Count).toNat - 1 ∧
    0xFFF < (State.reset.setI 0xFFF).ireg.toNat + (2 : Count).toNat - 1 := by decide

theorem witness_DrawingTwiceErases :
    (∀ k, k < (5 : Count).toNat → State.reset.ireg.toNat + k ≤ 0xFFF) ∧ (1 : Reg) ≠ Reg.flag ∧
    SpriteCovers State.reset 0 0 5 0 0 ∧ State.reset.activeCell 0 0 = false ∧
    ∀ c r, SpriteCovers State.reset 0 0 0 c r → State.reset.activeCell c r = true :=
  ⟨by decide, by decide, ⟨0, by decide, 0, by decide, rfl, rfl, rfl⟩, by decide,
    fun _ _ ⟨_, h, _⟩ => absurd h (Nat.not_lt_zero _)⟩

/-- The last key, pressed and released, and the first byte that names none. -/
theorem witness_KeySkipsTestTheNamedKey :
    ((pair 0xF 0x10).getV 0).toNat ≤ 0xF ∧ 0xF < ((pair 0xF 0x10).getV 1).toNat ∧
    (State.reset.setKey 0xF true).keys.getD 0xF false = true ∧
    State.reset.keys.getD 0xF false = false := by decide

theorem witness_KeyWaitStoresAPressedKey :
    (∀ k, k < 16 → State.reset.keys.getD k false = false) ∧
    ∃ k, k < 16 ∧ (State.reset.setKey 0xF true).keys.getD k false = true :=
  ⟨by decide, 15, by decide, by decide⟩

theorem witness_TimerTransfersCopy :
    ((pair 0 1).getV 0).toNat ≤ 1 ∧ ((pair 0 1).getV 1).toNat ≤ 1 := by decide

/-- The new I at 0xFFF and at 0x1000. -/
theorem witness_IndexAddSetsTheFlagFromTheNewI :
    0xFFF < (after (exec (.addI 0) ((pair 1 0).setI 0xFFF))).ireg.toNat ∧
    (after (exec (.addI 1) ((pair 1 0).setI 0xFFF))).ireg.toNat ≤ 0xFFF := by decide

theorem witness_BcdStoresThreeDigits :
    (State.reset.setI 0xFFD).ireg.toNat + 2 ≤ 0xFFF ∧
    0xFFF < (State.reset.setI 0xFFE).ireg.toNat + 2 := by decide

theorem witness_BlockStoreWritesV0ToVx :
    (State.reset.setI 0xFF0).ireg.toNat + (15 : Reg).toNat ≤ 0xFFF ∧
    0xFFF < (State.reset.setI 0xFF1).ireg.toNat + (15 : Reg).toNat ∧
    (15 : Reg).toNat ≤ (15 : Reg).toNat := by decide

theorem witness_BlockLoadReadsV0ToVx :
    (State.reset.setI 0xFFF).ireg.toNat + (0 : Reg).toNat ≤ 0xFFF ∧
    0xFFF < (State.reset.setI 0x1000).ireg.toNat + (0 : Reg).toNat ∧
    (0 : Reg).toNat ≤ (0 : Reg).toNat ∧ (0 : Reg).toNat < (1 : Reg).toNat := by decide

theorem witness_BlockStoreThenLoadRestores :
    (State.reset.setI 0xFF1).ireg.toNat + (14 : Reg).toNat ≤ 0xFFF ∧
    (14 : Reg).toNat ≤ (14 : Reg).toNat ∧ (14 : Reg).toNat < (15 : Reg).toNat := by decide

theorem witness_StoredBytesAreFetchedAtOnce :
    let s := State.reset.setI 0xFF0
    s.ireg.toNat + (15 : Reg).toNat ≤ 0xFFF ∧
    exec (.storeRegs 15) s = .next (after (exec (.storeRegs 15) s)) ∧
    (14 : Reg).toNat + 1 = (15 : Reg).toNat ∧ (15 : Reg).toNat ≤ (15 : Reg).toNat ∧
    (0xFFE : Word).toNat = s.ireg.toNat + (14 : Reg).toNat := ⟨by decide, rfl, by decide, by decide, by decide⟩

end Sys2Proof.Tests
end

/-! SUPPORT. What an instruction can do to the state, said once: how each shared operation ends, which
parts of the state each instruction may write, and that it leaves every other part alone. -/

namespace Sys2Proof.Machine

/-! ## How a shared operation ends -/

/-- A block instruction leaves the state given, or only records MEM_OUT_OF_RANGE. -/
theorem State.eq_of_withBlock_eq_next {s t done : State} {i : Instr} {len : Nat}
    (h : s.withBlock i len done = .next t) :
    t = done ∨ ∃ op a, t = s.raise .memOutOfRange op a := by
  rcases s.withBlock_cases i len done with ⟨_, he⟩ | ⟨_, he⟩ <;> cases he.symm.trans h
  · exact .inl rfl
  · exact .inr ⟨_, _, rfl⟩

/-- A key skip skips or falls through, or only records KEY_OUT_OF_RANGE. -/
theorem State.eq_of_skipOnKey_eq_next {s t : State} {i : Instr} {k : Byte} {wanted : Bool}
    (h : s.skipOnKey i k wanted = .next t) :
    (∃ taken, t = s.skipIf taken) ∨ ∃ op a, t = s.raise .keyOutOfRange op a := by
  rcases s.skipOnKey_cases i k wanted with ⟨_, he⟩ | ⟨_, he⟩ <;> cases he.symm.trans h
  · exact .inr ⟨_, _, rfl⟩
  · exact .inl ⟨_, rfl⟩

/-- 2nnn on a full stack only records STACK_OVERFLOW (42_flow_1_to_5.md R121). -/
theorem execCall_of_full {s : State} (nnn : Addr) (h : s.sp.val = 16) :
    execCall nnn s = .next (s.raise .stackOverflow (some (encode (.call nnn))) none) := by
  simp [execCall, State.push?, h]

/-- 2nnn with a free slot pushes its own address and jumps (42_flow_1_to_5.md R121). -/
theorem execCall_of_lt {s : State} (nnn : Addr) (h : s.sp.val < 16) :
    execCall nnn s = .next { s with
      stack := s.stack.set s.sp.val s.pc h, sp := ⟨s.sp.val + 1, by omega⟩, pc := addrWord nnn } := by
  simp [execCall, State.push?, h, State.jump]

/-- 00EE on an empty stack only records STACK_UNDERFLOW (41_family0_system.md R111). -/
theorem execRet_of_empty {s : State} (h : s.sp.val = 0) :
    execRet s = .next (s.raise .stackUnderflow (some (encode .ret)) none) := by
  simp [execRet, State.pop?, h]

/-- 00EE on an occupied stack pops and goes past the call (41_family0_system.md R111). -/
theorem execRet_of_pos {s : State} (h : 0 < s.sp.val) :
    execRet s = .next { s with
      sp := ⟨s.sp.val - 1, by omega⟩, pc := s.stack[s.sp.val - 1]'(by omega) + 2 } := by
  simp [execRet, State.pop?, Nat.ne_of_gt h, State.jump]

/-- The two ends of 2nnn. -/
theorem eq_of_execCall_eq_next {s t : State} {nnn : Addr} (h : execCall nnn s = .next t) :
    (∃ op, t = s.raise .stackOverflow op none) ∨
    ∃ hlt : s.sp.val < 16, t = { s with
      stack := s.stack.set s.sp.val s.pc hlt, sp := ⟨s.sp.val + 1, by omega⟩, pc := addrWord nnn } := by
  rcases Nat.lt_or_ge s.sp.val 16 with hlt | hge
  · cases (execCall_of_lt nnn hlt).symm.trans h; exact .inr ⟨hlt, rfl⟩
  · cases (execCall_of_full nnn (by omega)).symm.trans h; exact .inl ⟨_, rfl⟩

/-- The two ends of 00EE. -/
theorem eq_of_execRet_eq_next {s t : State} (h : execRet s = .next t) :
    (∃ op, t = s.raise .stackUnderflow op none) ∨
    ∃ (_ : 0 < s.sp.val) (hlt : s.sp.val - 1 < 16), t = { s with
      sp := ⟨s.sp.val - 1, by omega⟩, pc := s.stack[s.sp.val - 1] + 2 } := by
  rcases Nat.eq_zero_or_pos s.sp.val with hzero | hpos
  · cases (execRet_of_empty hzero).symm.trans h; exact .inl ⟨_, rfl⟩
  · cases (execRet_of_pos hpos).symm.trans h; exact .inr ⟨hpos, by omega, rfl⟩

/-- Fx0A waits and writes nothing, or draws a key into Vx and falls through (48_familyF.md R181). -/
theorem eq_of_execLdVxK_eq_next {s t : State} {x : Reg} (h : execLdVxK x s = .next t) :
    t = s ∨ ∃ v, t = (s.countDraw.setV x v).advance := by
  simp only [execLdVxK] at h
  split at h <;> cases h
  · exact .inl rfl
  · exact .inr ⟨_, rfl⟩

/-! ## What clearing and drawing leave alone -/

@[simp] theorem State.clearActive_pc (s : State) : s.clearActive.pc = s.pc := by
  cases h : s.mode <;> simp [State.clearActive, h]

@[simp] theorem State.clearActive_mem (s : State) : s.clearActive.mem = s.mem := by
  cases h : s.mode <;> simp [State.clearActive, h]

@[simp] theorem State.drawSprite_pc (s : State) (x y : Nat) (sprite : List Byte) :
    (s.drawSprite x y sprite).pc = s.pc := by
  rcases s.drawSprite_cases x y sprite with ⟨_, he⟩ | ⟨_, he⟩ <;> rw [he] <;> rfl

@[simp] theorem State.drawSprite_mem (s : State) (x y : Nat) (sprite : List Byte) :
    (s.drawSprite x y sprite).mem = s.mem := by
  rcases s.drawSprite_cases x y sprite with ⟨_, he⟩ | ⟨_, he⟩ <;> rw [he] <;> rfl

theorem State.getV_drawSprite_ne (s : State) (x y : Nat) (sprite : List Byte) {j : Reg}
    (hj : j ≠ Reg.flag) : (s.drawSprite x y sprite).getV j = s.getV j := by
  rcases s.drawSprite_cases x y sprite with ⟨_, he⟩ | ⟨_, he⟩ <;> rw [he] <;>
    exact State.getV_setFlag_ne _ _ hj

/-! ## Which parts an instruction may write -/

/-- The parts of the state an instruction may write, the fault record included where it can fault
(10_state.md R20 to R38). -/
def writtenParts : Instr → List Part
  | .cls => [.pstd, .pext, .drawPending]
  | .ret => [.sp, .fault]
  | .exit => [.running]
  | .low | .high => [.mode]
  | .call _ => [.stack, .sp, .fault]
  | .jp _ | .jpV0 _ | .seImm _ _ | .sneImm _ _ | .seReg _ _ | .sneReg _ _ => []
  | .ldImm _ _ | .addImm _ _ | .ldReg _ _ | .orReg _ _ | .andReg _ _ | .xorReg _ _ | .addReg _ _
  | .subReg _ _ | .shr _ _ | .subn _ _ | .shl _ _ | .ldVxDt _ => [.regs]
  | .rnd _ _ | .ldVxK _ => [.regs, .draws]
  | .ldI _ | .ldF _ | .ldHf _ => [.ireg]
  | .addI _ => [.regs, .ireg]
  | .drw _ _ _ => [.regs, .pstd, .pext, .drawPending, .fault]
  | .skp _ | .sknp _ => [.fault]
  | .ldDtVx _ => [.dt]
  | .ldStVx _ => [.st]
  | .ldB _ | .storeRegs _ => [.mem, .fault]
  | .loadRegs _ => [.regs, .fault]

section
variable {i : Instr}

theorem ireg_mem_writtenParts : .ireg ∈ writtenParts i ↔
    ∃ nnn x, i = .ldI nnn ∨ i = .addI x ∨ i = .ldF x ∨ i = .ldHf x := by
  cases i <;> simp [writtenParts]

theorem dt_mem_writtenParts : .dt ∈ writtenParts i ↔ ∃ x, i = .ldDtVx x := by
  cases i <;> simp [writtenParts]

theorem st_mem_writtenParts : .st ∈ writtenParts i ↔ ∃ x, i = .ldStVx x := by
  cases i <;> simp [writtenParts]

theorem stack_mem_writtenParts : .stack ∈ writtenParts i ↔ ∃ nnn, i = .call nnn := by
  cases i <;> simp [writtenParts]

theorem sp_mem_writtenParts : .sp ∈ writtenParts i ↔ ∃ nnn, i = .call nnn ∨ i = .ret := by
  cases i <;> simp [writtenParts]

theorem mode_mem_writtenParts : .mode ∈ writtenParts i ↔ i = .low ∨ i = .high := by
  cases i <;> simp [writtenParts]

theorem running_mem_writtenParts : .running ∈ writtenParts i ↔ i = .exit := by
  cases i <;> simp [writtenParts]

theorem keys_not_mem_writtenParts (i : Instr) : .keys ∉ writtenParts i := by
  cases i <;> simp [writtenParts]

theorem events_not_mem_writtenParts (i : Instr) : .events ∉ writtenParts i := by
  cases i <;> simp [writtenParts]

end

/-! ## Frames, operation by operation -/

section
variable {w : List Part} {s t : State}

theorem Frame.refl (s : State) : Frame w s s := by constructor <;> intros <;> rfl

theorem Frame.jump (h : Frame w s t) (a : Word) : Frame w s (t.jump a) := { h with }

theorem Frame.advance (h : Frame w s t) : Frame w s t.advance := h.jump _

theorem Frame.skipIf (h : Frame w s t) (taken : Bool) : Frame w s (t.skipIf taken) := h.jump _

theorem Frame.setV (h : Frame w s t) (x : Reg) (v : Byte)
    (hw : .regs ∈ w := by simp [writtenParts]) : Frame w s (t.setV x v) :=
  { h with regs := fun hn => absurd hw hn }

theorem Frame.setFlag (h : Frame w s t) (b : Bool)
    (hw : .regs ∈ w := by simp [writtenParts]) : Frame w s (t.setFlag b) := h.setV _ _ hw

theorem Frame.setI (h : Frame w s t) (v : Word)
    (hw : .ireg ∈ w := by simp [writtenParts]) : Frame w s (t.setI v) :=
  { h with ireg := fun hn => absurd hw hn }

theorem Frame.setDt (h : Frame w s t) (v : Byte)
    (hw : .dt ∈ w := by simp [writtenParts]) : Frame w s (t.setDt v) :=
  { h with dt := fun hn => absurd hw hn }

theorem Frame.setSt (h : Frame w s t) (v : Byte)
    (hw : .st ∈ w := by simp [writtenParts]) : Frame w s (t.setSt v) :=
  { h with st := fun hn => absurd hw hn }

theorem Frame.setMode (h : Frame w s t) (m : Resolution)
    (hw : .mode ∈ w := by simp [writtenParts]) : Frame w s (t.setMode m) :=
  { h with mode := fun hn => absurd hw hn }

theorem Frame.setMem (h : Frame w s t) (m : Memory)
    (hw : .mem ∈ w := by simp [writtenParts]) : Frame w s (t.setMem m) :=
  { h with mem := fun hn => absurd hw hn }

theorem Frame.halt (h : Frame w s t)
    (hw : .running ∈ w := by simp [writtenParts]) : Frame w s t.halt :=
  { h with running := fun hn => absurd hw hn }

theorem Frame.markDrawn (h : Frame w s t)
    (hw : .drawPending ∈ w := by simp [writtenParts]) : Frame w s t.markDrawn :=
  { h with drawPending := fun hn => absurd hw hn }

theorem Frame.countDraw (h : Frame w s t)
    (hw : .draws ∈ w := by simp [writtenParts]) : Frame w s t.countDraw :=
  { h with draws := fun hn => absurd hw hn }

theorem Frame.raise (h : Frame w s t) (k : FaultKind) (op : Option Word) (a : Option Nat)
    (hw : .fault ∈ w := by simp [writtenParts]) : Frame w s (t.raise k op a) :=
  { h with fault := fun hn => absurd hw hn }

theorem Frame.clearActive (h : Frame w s t) (hstd : .pstd ∈ w := by simp [writtenParts])
    (hext : .pext ∈ w := by simp [writtenParts]) : Frame w s t.clearActive := by
  rcases t.clearActive_cases with ⟨_, he⟩ | ⟨_, he⟩ <;> rw [he]
  · exact { h with pstd := fun hn => absurd hstd hn }
  · exact { h with pext := fun hn => absurd hext hn }

theorem Frame.drawSprite (h : Frame w s t) (x y : Nat) (sprite : List Byte)
    (hregs : .regs ∈ w := by simp [writtenParts]) (hstd : .pstd ∈ w := by simp [writtenParts])
    (hext : .pext ∈ w := by simp [writtenParts]) : Frame w s (t.drawSprite x y sprite) := by
  rcases t.drawSprite_cases x y sprite with ⟨_, he⟩ | ⟨_, he⟩ <;> rw [he]
  · exact { h.setFlag _ hregs with pstd := fun hn => absurd hstd hn }
  · exact { h.setFlag _ hregs with pext := fun hn => absurd hext hn }

theorem Frame.of_withBlock {done : State} {i : Instr} {len : Nat} (hd : Frame w s done)
    (h : s.withBlock i len done = .next t) (hw : .fault ∈ w := by simp [writtenParts]) :
    Frame w s t := by
  rcases State.eq_of_withBlock_eq_next h with rfl | ⟨_, _, rfl⟩
  · exact hd
  · exact (Frame.refl s).raise _ _ _ hw

theorem Frame.of_skipOnKey {i : Instr} {k : Byte} {wanted : Bool}
    (h : s.skipOnKey i k wanted = .next t) (hw : .fault ∈ w := by simp [writtenParts]) :
    Frame w s t := by
  rcases State.eq_of_skipOnKey_eq_next h with ⟨_, rfl⟩ | ⟨_, _, rfl⟩
  · exact (Frame.refl s).skipIf _
  · exact (Frame.refl s).raise _ _ _ hw

end

/-- An instruction leaves every part outside its `writtenParts` as it was. -/
theorem exec_frame {i : Instr} {s t : State} (h : exec i s = .next t) :
    Frame (writtenParts i) s t := by
  have same : Frame (writtenParts i) s s := Frame.refl s
  cases i with
  | cls => cases h; exact same.clearActive.markDrawn.advance
  | ret =>
    rcases eq_of_execRet_eq_next h with ⟨_, rfl⟩ | ⟨_, _, rfl⟩
    · exact same.raise _ _ _
    · exact { same with sp := fun hn => absurd (by simp [writtenParts]) hn }
  | call nnn =>
    rcases eq_of_execCall_eq_next h with ⟨_, rfl⟩ | ⟨_, rfl⟩
    · exact same.raise _ _ _
    · exact { same with
        stack := fun hn => absurd (by simp [writtenParts]) hn
        sp := fun hn => absurd (by simp [writtenParts]) hn }
  | exit => cases h; exact same.halt.advance
  | low | high => cases h; exact (same.setMode _).advance
  | jp | jpV0 => cases h; exact same.jump _
  | seImm | sneImm | seReg | sneReg => cases h; exact same.skipIf _
  | ldImm | addImm | ldReg | orReg | andReg | xorReg | ldVxDt =>
    cases h; exact (same.setV _ _).advance
  | addReg | subReg | subn => cases h; exact ((same.setV _ _).setFlag _).advance
  | shr | shl => cases h; exact ((same.setV _ _).setV _ _).advance
  | rnd => cases h; exact (same.countDraw.setV _ _).advance
  | ldVxK =>
    rcases eq_of_execLdVxK_eq_next h with rfl | ⟨_, rfl⟩
    · exact same
    · exact (same.countDraw.setV _ _).advance
  | ldI | ldF | ldHf => cases h; exact (same.setI _).advance
  | addI => cases h; exact ((same.setI _).setFlag _).advance
  | drw => exact (same.drawSprite _ _ _).markDrawn.advance.of_withBlock h
  | skp | sknp => exact Frame.of_skipOnKey h
  | ldDtVx => cases h; exact (same.setDt _).advance
  | ldStVx => cases h; exact (same.setSt _).advance
  | ldB | storeRegs => exact (same.setMem _).advance.of_withBlock h
  | loadRegs x =>
    have loaded (v) : Frame (writtenParts (.loadRegs x)) s { s with vreg := v } :=
      { same with regs := fun hn => absurd (by simp [writtenParts]) hn }
    exact (loaded _).advance.of_withBlock h

end Sys2Proof.Machine

/-! SUPPORT. The invariants of a step: the case split of a step packaged once, then memory's canonical
form, the reach of the pc, and what no step undoes. -/

namespace Sys2Proof.Machine

/-- What a commit leaves: the ticked state, the state before, or the state as the instruction left it. -/
theorem State.commit_eq (e : Ending) (s u : State) :
    State.commit false e s u = u.tick ∨ State.commit false e s u = s ∨
      State.commit false e s u = u := by
  cases e
  · exact .inl (State.commit_done ..)
  · exact .inr (.inl (State.commit_wait ..))
  · exact .inr (.inr (State.commit_faulted ..))

/-- A property of the state after a step from `s`: it is enough that `s` has it, that the fetch fault, an
UNKNOWN word and an instruction reach it from `s`, and that the tick keeps it. -/
theorem step_elim {s t : State} {P : State → Prop} (h : step s = .next t) (before : P s)
    (fetchFault : s.enabled = true → P s.fetchFault)
    (unknown : ∀ op, s.fetch = some op → P (execUnknown op s))
    (ran : ∀ i u, s.enabled = true → (∃ op, s.fetch = some op) → exec i s = .next u → P u)
    (tick : ∀ u, P u → P u.tick) : P t := by
  rcases step_cases s with ⟨_, he⟩ | ⟨hen, _, he⟩ | ⟨op, _, _, hf, _, he⟩ |
    ⟨op, i, u, hen, hf, _, hx, he⟩ <;> cases he.symm.trans h
  · exact before
  · exact fetchFault hen
  · exact tick _ (unknown op hf)
  · have hu := ran i u hen ⟨op, hf⟩ hx
    rcases State.commit_eq (ending i s u) s u with hc | hc | hc <;> rw [hc]
    · exact tick _ hu
    · exact before
    · exact hu

/-! ## Memory stays canonical -/

/-- What an instruction does to memory: nothing, or the digits of Fx33, or the block of Fx55
(20_memory.md R59). -/
theorem exec_mem {i : Instr} {s t : State} (h : exec i s = .next t) :
    t.mem = s.mem ∨
    (∃ x, i = .ldB x ∧
      t.mem = Memory.writeBytes s.mem s.ireg.toNat (decimalDigits (s.getV x))) ∨
    ∃ x, i = .storeRegs x ∧ t.mem = storeBlock s.vreg s.mem s.ireg.toNat (x.toNat + 1) := by
  cases i with
  | ldB x =>
    rcases State.eq_of_withBlock_eq_next h with rfl | ⟨_, _, rfl⟩
    · exact .inr (.inl ⟨x, rfl, rfl⟩)
    · exact .inl rfl
  | storeRegs x =>
    rcases State.eq_of_withBlock_eq_next h with rfl | ⟨_, _, rfl⟩
    · exact .inr (.inr ⟨x, rfl, rfl⟩)
    · exact .inl rfl
  | drw x y n =>
    rcases State.eq_of_withBlock_eq_next h with rfl | ⟨_, _, rfl⟩
    · exact .inl (s.drawSprite_mem ..)
    · exact .inl rfl
  | loadRegs => rcases State.eq_of_withBlock_eq_next h with rfl | ⟨_, _, rfl⟩ <;> exact .inl rfl
  | skp | sknp => rcases State.eq_of_skipOnKey_eq_next h with ⟨_, rfl⟩ | ⟨_, _, rfl⟩ <;> exact .inl rfl
  | call => rcases eq_of_execCall_eq_next h with ⟨_, rfl⟩ | ⟨_, rfl⟩ <;> exact .inl rfl
  | ret => rcases eq_of_execRet_eq_next h with ⟨_, rfl⟩ | ⟨_, _, rfl⟩ <;> exact .inl rfl
  | ldVxK => rcases eq_of_execLdVxK_eq_next h with rfl | ⟨_, rfl⟩ <;> exact .inl rfl
  | cls => cases h; exact .inl s.clearActive_mem
  | _ => cases h; exact .inl rfl

/-- An instruction keeps memory in its canonical form. -/
theorem exec_keeps_memoryCanonical {i : Instr} {s t : State} (hs : MemoryCanonical s)
    (h : exec i s = .next t) : MemoryCanonical t := by
  unfold MemoryCanonical
  rcases exec_mem h with he | ⟨_, _, he⟩ | ⟨_, _, he⟩ <;> rw [he]
  · exact hs
  · exact Memory.wf_writeBytes _ _ hs
  · exact Memory.wf_storeBlock _ _ _ hs

/-- Settles O14: the only writes are Fx33's and Fx55's, and each keeps the canonical form. -/
theorem stepKeepsMemoryCanonical : Obligations.StepKeepsMemoryCanonical := fun _ _ hs h =>
  step_elim h hs (fun _ => hs) (fun _ _ => hs) (fun _ _ _ _ hx => exec_keeps_memoryCanonical hs hx)
    fun u hu => by rw [MemoryCanonical, u.tick_spec]; exact hu

/-! ## The reach of the pc -/

/-- Where an instruction may leave the pc (40_step_cycle.md R94; 41_family0_system.md R111;
42_flow_1_to_5.md R120, R121; 45_family9_to_C.md R152). -/
inductive PcMove (s : State) : Word → Prop
  | stay : PcMove s s.pc
  | next : PcMove s (s.pc + 2)
  | skip : PcMove s (s.pc + 4)
  | target (nnn : Addr) : PcMove s (addrWord nnn)
  | indexed (nnn : Addr) (v : Byte) : PcMove s (indexedTarget nnn v)
  | past (j : Nat) (h : j < 16) : PcMove s (s.stack[j] + 2)

theorem pcMove_skipIf (s : State) (taken : Bool) : PcMove s (s.skipIf taken).pc := by
  cases taken
  · exact .next
  · exact .skip

theorem pcMove_of_withBlock {s t done : State} {i : Instr} {len : Nat}
    (h : s.withBlock i len done = .next t) (hd : done.pc = s.pc + 2) : PcMove s t.pc := by
  rcases State.eq_of_withBlock_eq_next h with rfl | ⟨_, _, rfl⟩
  · rw [hd]; exact .next
  · exact .stay

theorem pcMove_of_skipOnKey {s t : State} {i : Instr} {k : Byte} {wanted : Bool}
    (h : s.skipOnKey i k wanted = .next t) : PcMove s t.pc := by
  rcases State.eq_of_skipOnKey_eq_next h with ⟨_, rfl⟩ | ⟨_, _, rfl⟩
  · exact pcMove_skipIf s _
  · exact .stay

theorem exec_pcMove {i : Instr} {s t : State} (h : exec i s = .next t) : PcMove s t.pc := by
  cases i with
  | cls => cases h; rw [State.advance_pc, State.markDrawn_pc, s.clearActive_pc]; exact .next
  | ret =>
    rcases eq_of_execRet_eq_next h with ⟨_, rfl⟩ | ⟨_, hlt, rfl⟩
    · exact .stay
    · exact .past _ hlt
  | call nnn =>
    rcases eq_of_execCall_eq_next h with ⟨_, rfl⟩ | ⟨_, rfl⟩
    · exact .stay
    · exact .target nnn
  | jp nnn => cases h; exact .target nnn
  | jpV0 nnn => cases h; exact .indexed nnn _
  | seImm | sneImm | seReg | sneReg => cases h; exact pcMove_skipIf s _
  | skp | sknp => exact pcMove_of_skipOnKey h
  | ldVxK =>
    rcases eq_of_execLdVxK_eq_next h with rfl | ⟨_, rfl⟩
    · exact .stay
    · exact .next
  | drw x y n => exact pcMove_of_withBlock h (by simp)
  | ldB | storeRegs | loadRegs => exact pcMove_of_withBlock h rfl
  | _ => cases h; exact .next

/-- What an instruction does to the stack: nothing, or the pc into the slot at sp. -/
theorem exec_stack {i : Instr} {s t : State} (h : exec i s = .next t) :
    t.stack = s.stack ∨ ∃ hlt : s.sp.val < 16, t.stack = s.stack.set s.sp.val s.pc hlt := by
  by_cases hi : .stack ∈ writtenParts i
  · obtain ⟨nnn, rfl⟩ := stack_mem_writtenParts.mp hi
    rcases eq_of_execCall_eq_next h with ⟨_, rfl⟩ | ⟨hlt, rfl⟩
    · exact .inl rfl
    · exact .inr ⟨hlt, rfl⟩
  · exact .inl ((exec_frame h).stack hi)

/-- The pc after an instruction that was fetched: the farthest is Bnnn's, 0xFFF + 0xFF. -/
theorem PcMove.le {s : State} {a : Word} (h : PcMove s a) (hs : PcInReach s)
    (hpc : s.pc.toNat ≤ 0xFFE) : a.toNat ≤ 0x10FE := by
  obtain ⟨_, hstack⟩ := hs
  cases h with
  | stay => omega
  | next | skip => bv_omega
  | target nnn => simp only [addrWord, BitVec.toNat_setWidth]; omega
  | indexed nnn v =>
    simp only [indexedTarget, addrWord, BitVec.toNat_add, BitVec.toNat_setWidth]; omega
  | past j hj => have := hstack j hj; bv_omega

theorem State.pc_le_of_fetch {s : State} {op : Word} (h : s.fetch = some op) :
    s.pc.toNat ≤ 0xFFE := by
  by_contra hgt
  simp [State.fetch, show 0xFFE < s.pc.toNat by omega] at h

/-- An instruction that was fetched keeps the pc and the return addresses in reach. -/
theorem exec_keeps_pcInReach {i : Instr} {s t : State} (hs : PcInReach s)
    (hpc : s.pc.toNat ≤ 0xFFE) (h : exec i s = .next t) : PcInReach t := by
  refine ⟨(exec_pcMove h).le hs hpc, fun j hj => ?_⟩
  obtain ⟨_, hstack⟩ := hs
  rcases exec_stack h with he | ⟨hlt, he⟩ <;> simp only [he]
  · exact hstack j hj
  · rw [Vector.getElem_set]
    split
    · exact hpc
    · exact hstack j hj

/-- Settles O15: what runs was fetched, so the pc was at most 0xFFE, and no move leaves the reach. -/
theorem stepKeepsPcInReach : Obligations.StepKeepsPcInReach := fun s _ hs h =>
  step_elim h hs (fun _ => hs)
    (fun _ hf => ⟨PcMove.next.le hs (State.pc_le_of_fetch hf), hs.2⟩)
    (fun _ _ _ ⟨_, hf⟩ hx => exec_keeps_pcInReach hs (State.pc_le_of_fetch hf) hx)
    fun u hu => by rw [PcInReach, u.tick_spec]; exact hu

/-! ## What no step undoes -/

/-- Settles O26: no instruction writes the keys, and a halted or faulted machine is not enabled. -/
theorem stepNeverRestartsOrPressesKeys : Obligations.StepNeverRestartsOrPressesKeys := by
  intro s t h
  refine step_elim h (P := fun u => u.keys = s.keys ∧ (s.running = false → u.running = false) ∧
    ∀ f, s.fault = some f → u.fault = some f) ⟨rfl, id, fun _ => id⟩ ?_ ?_ ?_ ?_
  · intro hen
    obtain ⟨_, hfault⟩ := s.enabled_iff.mp hen
    exact ⟨rfl, id, by simp [hfault]⟩
  · exact fun _ _ => ⟨rfl, id, fun _ => id⟩
  · intro i u hen _ hx
    obtain ⟨hrun, hfault⟩ := s.enabled_iff.mp hen
    exact ⟨(exec_frame hx).keys (keys_not_mem_writtenParts i), by simp [hrun], by simp [hfault]⟩
  · intro u hu
    rw [u.tick_spec]; exact hu

/-- An instruction other than 00E0 and Dxyn writes neither plane nor draw_pending. -/
theorem exec_keeps_planes {i : Instr} {s t : State} (h : exec i s = .next t) (hcls : i ≠ .cls)
    (hdrw : ∀ x y n, i ≠ .drw x y n) :
    t.pstd = s.pstd ∧ t.pext = s.pext ∧ t.drawPending = s.drawPending := by
  have hw : Part.pstd ∉ writtenParts i ∧ Part.pext ∉ writtenParts i ∧
      Part.drawPending ∉ writtenParts i := by
    cases i <;> simp_all [writtenParts]
  obtain ⟨hstd, hext, hdraw⟩ := hw
  have hf := exec_frame h
  exact ⟨hf.pstd hstd, hf.pext hext, hf.drawPending hdraw⟩

/-- The plane that is inactive in `s` is the same in `t`, and draw_pending is not cleared (10_state.md
R33, R34). -/
def InactiveKept (s t : State) : Prop :=
  (s.mode = .standard → t.pext = s.pext) ∧ (s.mode = .extended → t.pstd = s.pstd) ∧
    (s.drawPending = true → t.drawPending = true)

theorem InactiveKept.refl (s : State) : InactiveKept s s := ⟨fun _ => rfl, fun _ => rfl, id⟩

theorem exec_inactiveKept {i : Instr} {s t : State} (h : exec i s = .next t) :
    InactiveKept s t := by
  cases i with
  | cls =>
    cases h
    rcases s.clearActive_cases with ⟨hm, he⟩ | ⟨hm, he⟩ <;> simp [InactiveKept, he, hm]
  | drw x y n =>
    rcases State.eq_of_withBlock_eq_next h with rfl | ⟨_, _, rfl⟩
    · rcases s.drawSprite_cases (s.getV x).toNat (s.getV y).toNat
        (Memory.readBytes s.mem s.ireg.toNat n.toNat) with ⟨hm, he⟩ | ⟨hm, he⟩ <;>
        simp [InactiveKept, he, hm]
    · exact InactiveKept.refl s
  | _ =>
    obtain ⟨hstd, hext, hdraw⟩ := exec_keeps_planes h (by simp) (by simp)
    exact ⟨fun _ => hext, fun _ => hstd, hdraw.trans⟩

/-- Settles O25: the two plane instructions write by the mode, and the others write no plane. -/
theorem inactivePlaneIsNeverTouched : Obligations.InactivePlaneIsNeverTouched :=
  ⟨fun _ _ _ => exec_keeps_planes, fun s _ h =>
    step_elim h (P := InactiveKept s) (InactiveKept.refl s) (fun _ => InactiveKept.refl s)
      (fun _ _ => InactiveKept.refl s) (fun _ _ _ _ => exec_inactiveKept)
      fun u hu => by rw [u.tick_spec]; exact hu⟩

end Sys2Proof.Machine

/-! SUPPORT. What one instruction writes and reads: the registers and the special state, instruction by
instruction, and that no instruction depends on the keys, ST or the stack but those that name them. -/

namespace Sys2Proof.Machine

/-! ## What an instruction writes -/

/-- The block load writes V0 to Vx alone. -/
theorem getV_loadBlock_of_lt {s t : State} {x j : Reg} (m : Memory) (a : Nat)
    (ht : t.vreg = loadBlock s.vreg m a (x.toNat + 1)) (hj : x.toNat < j.toNat) :
    t.getV j = s.getV j := by
  have hload := getD_loadBlock s.vreg m a (k := x.toNat + 1) (by omega) j.isLt
  rw [if_neg (by omega), vector_getD_of_lt _ _ j.isLt, vector_getD_of_lt _ _ j.isLt] at hload
  simpa only [State.getV, ht] using hload

/-- Settles O22: the instructions that write a register, each by what its write leaves alone. -/
theorem onlyNamedRegistersChange : Obligations.OnlyNamedRegistersChange := by
  intro i s t h j hj
  cases i with
  | ldImm | addImm | ldReg | orReg | andReg | xorReg | ldVxDt | rnd =>
    cases h; exact State.getV_setV_ne _ _ hj
  | ldVxK =>
    rcases eq_of_execLdVxK_eq_next h with rfl | ⟨_, rfl⟩
    · rfl
    · exact State.getV_setV_ne _ _ hj
  | addReg | subReg | subn =>
    obtain ⟨hx, hflag⟩ := not_or.mp hj
    cases h; exact (State.getV_setFlag_ne _ _ hflag).trans (State.getV_setV_ne _ _ hx)
  | shr | shl =>
    obtain ⟨hx, hflag⟩ := not_or.mp hj
    cases h; exact (State.getV_setV_ne _ _ hx).trans (State.getV_setV_ne _ _ hflag)
  | addI => cases h; exact State.getV_setFlag_ne _ _ hj
  | drw x y n =>
    rcases State.eq_of_withBlock_eq_next h with rfl | ⟨_, _, rfl⟩
    · exact s.getV_drawSprite_ne _ _ _ hj
    · rfl
  | loadRegs x =>
    rcases State.eq_of_withBlock_eq_next h with rfl | ⟨_, _, rfl⟩
    · exact getV_loadBlock_of_lt _ _ rfl (Nat.lt_of_not_le hj)
    · rfl
  | _ => exact (exec_frame h).regs (by simp [writtenParts]) j

/-- Settles O24: each part's writers, read off `writtenParts`. -/
theorem onlyNamedInstructionsWriteSpecialState :
    Obligations.OnlyNamedInstructionsWriteSpecialState := by
  intro i s t h
  have hf := exec_frame h
  refine ⟨fun hi => hf.ireg ?_, fun hi => hf.dt ?_, fun hi => hf.st ?_, fun hi => hf.stack ?_,
    fun hi => hf.sp ?_, fun hi => hf.mode ?_, fun hi => hf.running ?_,
    hf.keys (keys_not_mem_writtenParts i), hf.events (events_not_mem_writtenParts i)⟩
  · simpa [ireg_mem_writtenParts] using hi
  · simpa [dt_mem_writtenParts] using hi
  · simpa [st_mem_writtenParts] using hi
  · simpa [stack_mem_writtenParts] using hi
  · simpa [sp_mem_writtenParts] using hi
  · simpa [mode_mem_writtenParts] using hi
  · simpa [running_mem_writtenParts] using hi

/-! ## What an instruction reads -/

/-- The stacks `a` and `b` agree on the occupied slots when `n` are occupied. -/
def AgreeBelow (n : Nat) (a b : Vector Word 16) : Prop := ∀ j, (h : j < 16) → j < n → a[j] = b[j]

theorem AgreeBelow.refl (n : Nat) (a : Vector Word 16) : AgreeBelow n a a := fun _ _ _ => rfl

/-- The state with its keys, its ST and its stack put through a function each. -/
def State.mapHidden (fkeys : Vector Bool 16 → Vector Bool 16) (fsound : Byte → Byte)
    (fstack : Vector Word 16 → Vector Word 16) (s : State) : State :=
  { s with keys := fkeys s.keys, st := fsound s.st, stack := fstack s.stack }

section
variable {fkeys : Vector Bool 16 → Vector Bool 16} {fsound : Byte → Byte}
  {fstack : Vector Word 16 → Vector Word 16} {s t : State}

theorem State.clearActive_mapHidden :
    (s.mapHidden fkeys fsound fstack).clearActive = s.clearActive.mapHidden fkeys fsound fstack := by
  cases hm : s.mode <;> simp [State.clearActive, State.mapHidden, hm]

theorem State.drawSprite_mapHidden (x y : Nat) (sprite : List Byte) :
    (s.mapHidden fkeys fsound fstack).drawSprite x y sprite =
      (s.drawSprite x y sprite).mapHidden fkeys fsound fstack := by
  cases hm : s.mode <;> simp [State.drawSprite, State.mapHidden, hm] <;> rfl

theorem State.withBlock_mapHidden {done : State} {i : Instr} {len : Nat}
    (h : s.withBlock i len done = .next t) :
    (s.mapHidden fkeys fsound fstack).withBlock i len (done.mapHidden fkeys fsound fstack) =
      .next (t.mapHidden fkeys fsound fstack) := by
  simp only [State.withBlock, State.mapHidden] at h ⊢
  split at h <;> cases h <;> rfl

theorem State.skipOnKey_mapHidden {i : Instr} {k : Byte} {wanted : Bool}
    (h : s.skipOnKey i k wanted = .next t) :
    (s.mapHidden id fsound fstack).skipOnKey i k wanted = .next (t.mapHidden id fsound fstack) := by
  simp only [State.skipOnKey, State.keyLevel, State.mapHidden, id] at h ⊢
  split at h <;> cases h <;> rfl

theorem execLdVxK_mapHidden {x : Reg} (h : execLdVxK x s = .next t) :
    execLdVxK x (s.mapHidden id fsound fstack) = .next (t.mapHidden id fsound fstack) := by
  by_cases hp : s.pressedKeys = []
  · cases (if_pos hp).symm.trans h; exact if_pos hp
  · cases (if_neg hp).symm.trans h; exact if_neg hp

/-- A return reads the slot below sp alone. -/
theorem execRet_mapHidden (hs : AgreeBelow s.sp.val (fstack s.stack) s.stack)
    (h : execRet s = .next t) :
    execRet (s.mapHidden fkeys fsound fstack) = .next (t.mapHidden fkeys fsound fstack) := by
  rcases Nat.eq_zero_or_pos s.sp.val with hzero | hpos
  · cases (execRet_of_empty hzero).symm.trans h
    exact execRet_of_empty (s := s.mapHidden fkeys fsound fstack) hzero
  · cases (execRet_of_pos hpos).symm.trans h
    rw [← hs (s.sp.val - 1) (by omega) (by omega)]
    exact execRet_of_pos (s := s.mapHidden fkeys fsound fstack) hpos

theorem execCall_mapHidden {nnn : Addr} (h : execCall nnn s = .next t) :
    execCall nnn (s.mapHidden fkeys fsound id) = .next (t.mapHidden fkeys fsound id) := by
  rcases Nat.lt_or_ge s.sp.val 16 with hlt | hge
  · cases (execCall_of_lt nnn hlt).symm.trans h
    exact execCall_of_lt (s := s.mapHidden fkeys fsound id) nnn hlt
  · have hfull : s.sp.val = 16 := by omega
    cases (execCall_of_full nnn hfull).symm.trans h
    exact execCall_of_full (s := s.mapHidden fkeys fsound id) nnn hfull

/-- An instruction acts alike whatever the keys, ST and the stack hold, but for the instructions that
name them: those leave the state they would have left, with the same replacement made in it. -/
theorem exec_mapHidden {i : Instr}
    (hkeys : ∀ x, i = .skp x ∨ i = .sknp x ∨ i = .ldVxK x → fkeys = id)
    (hst : ∀ x, i = .ldStVx x → fsound = id)
    (hret : i = .ret → AgreeBelow s.sp.val (fstack s.stack) s.stack)
    (hcall : ∀ nnn, i = .call nnn → fstack = id)
    (h : exec i s = .next t) :
    exec i (s.mapHidden fkeys fsound fstack) = .next (t.mapHidden fkeys fsound fstack) := by
  cases i with
  | cls => cases h; simp only [exec, execCls, State.clearActive_mapHidden]; rfl
  | drw =>
    simp only [exec, execDrw, State.drawSprite_mapHidden]
    exact State.withBlock_mapHidden h
  | ldB | storeRegs | loadRegs => exact State.withBlock_mapHidden h
  | skp x | sknp x => obtain rfl := hkeys x (by simp); exact State.skipOnKey_mapHidden h
  | ldVxK x => obtain rfl := hkeys x (by simp); exact execLdVxK_mapHidden h
  | ret => exact execRet_mapHidden (hret rfl) h
  | call nnn => obtain rfl := hcall nnn rfl; exact execCall_mapHidden h
  | ldStVx x => obtain rfl := hst x rfl; cases h; rfl
  | _ => cases h; rfl

end

/-- Settles O28: the keys are one of the hidden parts. -/
theorem onlyKeyInstructionsReadKeys : Obligations.OnlyKeyInstructionsReadKeys :=
  fun _ _ _ keys hi h =>
    exec_mapHidden (fkeys := fun _ => keys) (fsound := id) (fstack := id)
      (fun x hx => absurd hx (by simp [hi x])) (fun _ _ => rfl) (fun _ => .refl _ _)
      (fun _ _ => rfl) h

/-- Settles O29: ST is one of the hidden parts, and Fx18 overwrites whatever it held. -/
theorem noInstructionReadsTheSoundTimer : Obligations.NoInstructionReadsTheSoundTimer := by
  refine fun _ _ _ v h => ⟨fun hi => ?_, ?_⟩
  · exact exec_mapHidden (fkeys := id) (fsound := fun _ => v) (fstack := id)
      (fun _ _ => rfl) (fun x hx => absurd hx (hi x)) (fun _ => .refl _ _) (fun _ _ => rfl) h
  · rintro ⟨x, rfl⟩
    cases h; rfl

/-- A call overwrites the slot at sp and reads none. -/
theorem execCall_of_agreeBelow {s t : State} {slots : Vector Word 16} {nnn : Addr}
    (hs : AgreeBelow s.sp.val slots s.stack) (h : execCall nnn s = .next t) :
    ∃ u, execCall nnn { s with stack := slots } = .next u ∧ u = { t with stack := u.stack } ∧
      AgreeBelow t.sp.val u.stack t.stack := by
  rcases Nat.lt_or_ge s.sp.val 16 with hlt | hge
  · cases (execCall_of_lt nnn hlt).symm.trans h
    refine ⟨_, execCall_of_lt (s := { s with stack := slots }) nnn hlt, rfl, fun j hj hlt' => ?_⟩
    simp only [Vector.getElem_set]
    split
    · rfl
    · exact hs j hj (by simp at hlt'; omega)
  · have hfull : s.sp.val = 16 := by omega
    cases (execCall_of_full nnn hfull).symm.trans h
    exact ⟨_, execCall_of_full (s := { s with stack := slots }) nnn hfull, rfl, hs⟩

/-- Only a call raises sp. -/
theorem exec_sp_le {i : Instr} {s t : State} (h : exec i s = .next t) (hi : ∀ nnn, i ≠ .call nnn) :
    t.sp.val ≤ s.sp.val := by
  by_cases hret : i = .ret
  · subst hret
    rcases eq_of_execRet_eq_next h with ⟨_, rfl⟩ | ⟨_, _, rfl⟩
    · exact Nat.le_refl _
    · exact Nat.sub_le ..
  · rw [(exec_frame h).sp (by simp [sp_mem_writtenParts, hi, hret])]

/-- Settles O30: a return reads below sp, a call writes at sp, and the rest neither read nor write. -/
theorem staleStackSlotsAreNeverRead : Obligations.StaleStackSlotsAreNeverRead := by
  intro i s t slots hs h
  by_cases hi : ∃ nnn, i = .call nnn
  · obtain ⟨nnn, rfl⟩ := hi
    exact execCall_of_agreeBelow hs h
  · rw [not_exists] at hi
    have hx := exec_mapHidden (fkeys := id) (fsound := id) (fstack := fun _ => slots)
      (fun _ _ => rfl) (fun _ _ => rfl) (fun _ => hs) (fun nnn hn => absurd hn (hi nnn)) h
    have hstack : t.stack = s.stack :=
      (exec_frame h).stack (by simp [stack_mem_writtenParts, hi])
    refine ⟨_, hx, rfl, fun j hj hlt => ?_⟩
    simp only [hstack]
    exact hs j hj (Nat.lt_of_lt_of_le hlt (exec_sp_le h hi))

end Sys2Proof.Machine

/-! SUPPORT. Memory as the fetch and the stores see it (20_memory.md): the fetch's byte order, the bytes
an instruction leaves alone, and the fetch of bytes that Fx55 has just stored. -/

namespace Sys2Proof.Machine

/-! ## The fetch -/

/-- The two bytes of a fetched word, as a number. -/
theorem wordOfBytes_toNat (first second : Byte) :
    (wordOfBytes first second).toNat = first.toNat * 256 + second.toNat :=
  toNat_append_add first second

/-- Settles O10: an in-range fetch joins the two bytes, the first in the high half. -/
theorem fetchIsBigEndian : Obligations.FetchIsBigEndian := fun _ hpc =>
  ⟨_, State.fetch_eq_some hpc, wordOfBytes_toNat _ _⟩

/-! ## The bytes a store leaves alone -/

/-- Settles O23: memory is as it was, or holds three digits more, or a block of x + 1 bytes, and either
write keeps what lies outside it. -/
theorem onlyStoredBytesChange : Obligations.OnlyStoredBytesChange := by
  intro i s t h a ha
  rcases exec_mem h with hmem | ⟨x, rfl, hmem⟩ | ⟨x, rfl, hmem⟩ <;> rw [hmem]
  · have hdigits : (decimalDigits (s.getV x)).length = 3 := rfl
    simp only [byteMayChange] at ha
    exact Memory.read_writeBytes_outside _ _ (by omega)
  · simp only [byteMayChange] at ha
    exact Memory.read_storeBlock_outside _ _ (by omega)

/-! ## The bytes a store puts in -/

/-- A block instruction whose block ends inside memory leaves the state given. -/
theorem State.eq_done_of_withBlock_eq_next {s t done : State} {i : Instr} {len : Nat}
    (h : s.withBlock i len done = .next t) (hr : s.ireg.toNat + len ≤ 0x1000) : t = done := by
  rcases s.withBlock_cases i len done with ⟨_, he⟩ | ⟨hout, _⟩
  · cases he.symm.trans h; rfl
  · omega

/-- Fx55 with its block in range leaves V[j] at I + j, for every j up to x (48_familyF.md R188). -/
theorem read_of_execStoreRegs {s t : State} {x j : Reg} (h : exec (.storeRegs x) s = .next t)
    (hr : s.ireg.toNat + x.toNat ≤ 0xFFF) (hj : j.toNat ≤ x.toNat) :
    Memory.read t.mem (s.ireg.toNat + j.toNat) = s.getV j := by
  obtain rfl := State.eq_done_of_withBlock_eq_next h (by omega)
  exact (Memory.read_storeBlock_inside _ _ (by omega) (by simp only [Config.memSize]; omega)).trans
    (vector_getD_of_lt _ _ j.isLt)

/-- Settles O60: the pc lies at I + j, so its two bytes are those of V[j] and V[j + 1] in the block. -/
theorem storedBytesAreFetchedAtOnce : Obligations.StoredBytesAreFetchedAtOnce := by
  intro x j k s t pc hr h hjk hk hpc
  have hfirst : Memory.read t.mem pc.toNat = s.getV j := by
    rw [hpc]; exact read_of_execStoreRegs h hr (by omega)
  have hsecond : Memory.read t.mem (pc.toNat + 1) = s.getV k := by
    rw [hpc, Nat.add_assoc, hjk]; exact read_of_execStoreRegs h hr hk
  have hfetch : State.fetch { t with pc := pc } = _ := State.fetch_eq_some (by simp only; omega)
  rw [hfetch, hfirst, hsecond]

end Sys2Proof.Machine

/-! SUPPORT. Decoding and encoding are inverse on the words of the opcode table (30_encoding.md R71 to
R76): decode of encode, how the decoding of any word ends, and the table's rows as numbers. -/

namespace Sys2Proof

/-! ## Decode of encode -/

/-- An instruction is decoded from its own word: each format's fields come back as they were put in
(R72, R74). -/
theorem decodeWord_encode (i : Instr) : decodeWord (encode i) = .ok i := by
  cases i with
  | cls | ret | exit | low | high => rfl
  | jp | call | ldI | jpV0 | seImm | sneImm | ldImm | addImm | rnd | seReg | sneReg | drw =>
    simp [encode, decodeWord]
  | ldReg | orReg | andReg | xorReg | addReg | subReg | shr | subn | shl =>
    simp [encode, decodeWord, decodeFamily8]
  | skp | sknp => simp [encode, decodeWord, decodeFamilyE]
  | ldVxDt | ldVxK | ldDtVx | ldStVx | addI | ldF | ldHf | ldB | storeRegs | loadRegs =>
    simp [encode, decodeWord, decodeFamilyF]

/-- Settles O1: the round trip holds of every instruction. -/
theorem decodeOfEncodeIsTheInstruction : Obligations.DecodeOfEncodeIsTheInstruction :=
  fun i _ => decodeWord_encode i

/-- Settles O5: each of the words is the encoding of its instruction. -/
theorem writtenOutWordsDecode : Obligations.WrittenOutWordsDecode :=
  ⟨decodeWord_encode .cls, decodeWord_encode (.jp 0x234), decodeWord_encode (.call 0x20A),
    decodeWord_encode (.seImm 0 8), decodeWord_encode (.sneImm 3 0x11),
    decodeWord_encode (.seReg 1 2), decodeWord_encode (.ldImm 0 5), decodeWord_encode (.addImm 0 3),
    decodeWord_encode (.shr 3 4), decodeWord_encode (.sneReg 1 2), decodeWord_encode (.ldI 0x300),
    decodeWord_encode (.jpV0 0x300), decodeWord_encode (.rnd 5 0x0F),
    decodeWord_encode (.drw 1 2 5), decodeWord_encode (.sknp 4), decodeWord_encode (.loadRegs 2)⟩

/-! ## A word from the fields an arm of the decoder has tested -/

section
variable {op : Word} {f : BitVec 4} (hf : (fieldFamily op).toNat = f.toNat)
include hf

theorem formatNNN_of_family : formatNNN f (fieldNNN op) = op := by
  rw [← BitVec.eq_of_toNat_eq hf, formatNNN_fields]

theorem formatXNN_of_family : formatXNN f (fieldX op) (fieldNN op) = op := by
  rw [← BitVec.eq_of_toNat_eq hf, formatXNN_fields]

theorem formatXYN_of_family : formatXYN f (fieldX op) (fieldY op) (fieldN op) = op := by
  rw [← BitVec.eq_of_toNat_eq hf, formatXYN_fields]

theorem formatXNN_of_family_of_low {nn : Byte} (hnn : fieldNN op = nn) :
    formatXNN f (fieldX op) nn = op := by
  rw [← hnn, formatXNN_of_family hf]

theorem formatXYN_of_family_of_low {n : BitVec 4} (hn : (fieldN op).toNat = n.toNat) :
    formatXYN f (fieldX op) (fieldY op) n = op := by
  rw [← BitVec.eq_of_toNat_eq hn, formatXYN_of_family hf]

end

/-! ## How the decoding of a word ends -/

/-- The UNKNOWN words, family by family (R76). -/
def UnknownWord (op : Word) : Prop :=
  (op.toNat / 4096 = 0x0 ∧ op.toNat ∉ [0x00E0, 0x00EE, 0x00FD, 0x00FE, 0x00FF]) ∨
  (op.toNat / 4096 = 0x5 ∧ op.toNat % 16 ≠ 0) ∨
  (op.toNat / 4096 = 0x8 ∧ op.toNat % 16 ∈ [0x8, 0x9, 0xA, 0xB, 0xC, 0xD, 0xF]) ∨
  (op.toNat / 4096 = 0x9 ∧ op.toNat % 16 ≠ 0) ∨
  (op.toNat / 4096 = 0xE ∧ op.toNat % 256 ∉ [0x9E, 0xA1]) ∨
  (op.toNat / 4096 = 0xF ∧
    op.toNat % 256 ∉ [0x07, 0x0A, 0x15, 0x18, 0x1E, 0x29, 0x30, 0x33, 0x55, 0x65])

/-- `r` rejects `op` under its own value when `unknown`, and otherwise is an instruction whose word is
`op`. -/
def ReadsUnless (unknown : Prop) (op : Word) (r : Except DecodeError Instr) : Prop :=
  (unknown ∧ r = .error (.unknown op)) ∨ (¬ unknown ∧ ∃ i, r = .ok i ∧ encode i = op)

theorem ReadsUnless.ok {unknown : Prop} {op : Word} {i : Instr} (he : encode i = op)
    (h : ¬ unknown) : ReadsUnless unknown op (.ok i) := .inr ⟨h, i, rfl, he⟩

theorem ReadsUnless.error {unknown : Prop} {op : Word} (h : unknown) :
    ReadsUnless unknown op (.error (.unknown op)) := .inl ⟨h, rfl⟩

/-- Family 0 reads its five words. -/
theorem decodeFamily0_reads (op : Word) :
    ReadsUnless (op.toNat ∉ [0x00E0, 0x00EE, 0x00FD, 0x00FE, 0x00FF]) op (decodeFamily0 op) := by
  unfold decodeFamily0
  split_ifs
  case neg => exact .error (by simp_all [← BitVec.toNat_inj])
  all_goals exact .ok (by subst op; rfl) (by subst op; decide)

/-- Family 8 reads the words whose low nibble is 0 to 7 or E. -/
theorem decodeFamily8_reads {op : Word} (hf : (fieldFamily op).toNat = 0x8) :
    ReadsUnless (op.toNat % 16 ∈ [0x8, 0x9, 0xA, 0xB, 0xC, 0xD, 0xF]) op (decodeFamily8 op) := by
  rw [← fieldN_toNat]
  unfold decodeFamily8
  split
  case h_10 =>
    have hlt := (fieldN op).isLt
    exact .error (by simp only [List.mem_cons]; grind)
  all_goals next hn => exact .ok (formatXYN_of_family_of_low hf hn) (by simp [hn])

/-- Family E reads the words with one of its two low bytes. -/
theorem decodeFamilyE_reads {op : Word} (hf : (fieldFamily op).toNat = 0xE) :
    ReadsUnless (op.toNat % 256 ∉ [0x9E, 0xA1]) op (decodeFamilyE op) := by
  rw [← fieldNN_toNat]
  unfold decodeFamilyE
  split_ifs
  case neg => exact .error (by simp_all [← BitVec.toNat_inj])
  all_goals exact .ok (formatXNN_of_family_of_low hf ‹_›) (by simp [*])

/-- Family F reads the words with one of its ten low bytes. -/
theorem decodeFamilyF_reads {op : Word} (hf : (fieldFamily op).toNat = 0xF) :
    ReadsUnless (op.toNat % 256 ∉ [0x07, 0x0A, 0x15, 0x18, 0x1E, 0x29, 0x30, 0x33, 0x55, 0x65]) op
      (decodeFamilyF op) := by
  rw [← fieldNN_toNat]
  unfold decodeFamilyF
  split_ifs
  case neg => exact .error (by simp_all [← BitVec.toNat_inj])
  all_goals exact .ok (formatXNN_of_family_of_low hf ‹_›) (by simp [*])

/-- The decoder rejects the words of R76's table and reads every other word as an instruction whose
word it is, arm by arm of R74. -/
theorem decodeWord_reads (op : Word) : ReadsUnless (UnknownWord op) op (decodeWord op) := by
  unfold UnknownWord decodeWord
  rw [← fieldFamily_toNat]
  split <;> rename_i hf
  case h_1 => simpa [hf] using decodeFamily0_reads op
  case h_9 => simpa [hf] using decodeFamily8_reads hf
  case h_15 => simpa [hf] using decodeFamilyE_reads hf
  case h_16 =>
    have hlt := (fieldFamily op).isLt
    have hF : (fieldFamily op).toNat = 0xF := by grind
    simpa [hF] using decodeFamilyF_reads hF
  case h_6 | h_10 =>
    rw [← fieldN_toNat]
    split_ifs with hn
    · exact .ok (formatXYN_of_family_of_low hf (BitVec.toNat_inj.mpr hn)) (by simp [hf, hn])
    · exact .error (by simpa [hf, ← BitVec.toNat_inj] using hn)
  case h_2 | h_3 | h_11 | h_12 => exact .ok (formatNNN_of_family hf) (by simp [hf])
  case h_4 | h_5 | h_7 | h_8 | h_13 => exact .ok (formatXNN_of_family hf) (by simp [hf])
  case h_14 => exact .ok (formatXYN_of_family hf) (by simp [hf])

/-- Settles O2: a word that decodes is not rejected, so what it reads as has that word. -/
theorem encodeOfDecodeIsTheWord : Obligations.EncodeOfDecodeIsTheWord := by
  intro op i hi
  rcases decodeWord_reads op with ⟨_, hr⟩ | ⟨_, j, hj, he⟩
  · cases hr.symm.trans hi
  · cases hj.symm.trans hi; exact he

/-- Settles O4: the listed words are those of `UnknownWord`, which alone are rejected. -/
theorem unknownWordsAreTheListedOnes : Obligations.UnknownWordsAreTheListedOnes := by
  intro op
  rcases decodeWord_reads op with ⟨hu, hr⟩ | ⟨hu, i, hi, _⟩
  · exact (if_pos hu).mpr hr
  · exact (if_neg hu).mpr ⟨i, hi⟩

/-! ## The rows of the opcode table -/

/-- Every instruction's word matches its own row, which stands in the table. -/
theorem fixedBits_all (i : Instr) : Laws.FixedBits.Statement i := by
  open Laws.FixedBits in
  cases i
  exacts [cls, ret, exit, low, high, jp _, call _, seImm _ _, sneImm _ _, seReg _ _, ldImm _ _,
    addImm _ _, ldReg _ _, orReg _ _, andReg _ _, xorReg _ _, addReg _ _, subReg _ _, shr _ _,
    subn _ _, shl _ _, sneReg _ _, ldI _, jpV0 _, rnd _ _, drw _ _ _, skp _, sknp _, ldVxDt _,
    ldVxK _, ldDtVx _, ldStVx _, addI _, ldF _, ldHf _, ldB _, storeRegs _, loadRegs _]

theorem OpcodeRow.covers_iff {m v op : Word} :
    (OpcodeRow.mk m v).covers op = true ↔ op &&& m = v := beq_iff_eq

/-- Under one mask a word has one row. -/
theorem OpcodeRow.covers_iff_of_covers {m v w op : Word} (h : (OpcodeRow.mk m w).covers op = true) :
    (OpcodeRow.mk m v).covers op = true ↔ w.toNat = v.toNat := by
  rw [covers_iff, covers_iff.mp h, BitVec.toNat_inj]

/-- The rows of formats NNN, XNN and XYN test the family. -/
theorem covers_family_iff {v op : Word} :
    (OpcodeRow.mk 0xF000 v).covers op = true ↔ op.toNat / 4096 * 4096 = v.toNat := by
  have own := Laws.FixedBits.covers_formatNNN (f := fieldFamily op) (nnn := fieldNNN op) rfl
  rw [formatNNN_fields] at own
  simp only [OpcodeRow.covers_iff_of_covers own, toNat_append_add, fieldFamily_toNat,
    BitVec.toNat_ofNat]
  omega

/-- The rows of format XY test the family and the low nibble. -/
theorem covers_family_nibble_iff {v op : Word} :
    (OpcodeRow.mk 0xF00F v).covers op = true ↔
      op.toNat / 4096 * 4096 + op.toNat % 16 = v.toNat := by
  have own := Laws.FixedBits.covers_formatXY (f := fieldFamily op) (x := fieldX op) (y := fieldY op)
    (n := fieldN op) rfl
  rw [formatXYN_fields] at own
  simp only [OpcodeRow.covers_iff_of_covers own, toNat_append_add, fieldFamily_toNat, fieldN_toNat,
    BitVec.toNat_ofNat]
  omega

/-- The rows of format X test the family and the low byte. -/
theorem covers_family_byte_iff {v op : Word} :
    (OpcodeRow.mk 0xF0FF v).covers op = true ↔
      op.toNat / 4096 * 4096 + op.toNat % 256 = v.toNat := by
  have own := Laws.FixedBits.covers_formatX (f := fieldFamily op) (x := fieldX op)
    (nn := fieldNN op) rfl
  rw [formatXNN_fields] at own
  simp only [OpcodeRow.covers_iff_of_covers own, toNat_append_add, fieldFamily_toNat, fieldNN_toNat,
    BitVec.toNat_ofNat]
  omega

/-- The rows of format O test the whole word. -/
theorem covers_word_iff {v op : Word} :
    (OpcodeRow.mk 0xFFFF v).covers op = true ↔ op.toNat = v.toNat := by
  have hones : op &&& 0xFFFF = op := BitVec.and_allOnes
  rw [OpcodeRow.covers_iff, hones, BitVec.toNat_inj]

/-- No UNKNOWN word matches a row of the table: row by row, the fixed bits as numbers are none of
those that R76 lists. -/
theorem not_unknownWord_of_covers {row : OpcodeRow} {op : Word} (hrow : row ∈ opcodeTable)
    (h : row.covers op = true) : ¬ UnknownWord op := by
  simp only [UnknownWord, List.mem_cons, List.not_mem_nil, or_false]
  fin_cases hrow <;>
    simp only [covers_word_iff, covers_family_iff, covers_family_nibble_iff, covers_family_byte_iff,
      BitVec.reduceToNat] at h <;>
    omega

/-- Settles O3: a decoded word is its instruction's word, so that instruction's row covers it; a word
some row covers is not UNKNOWN, so it decodes. -/
theorem wordDecodesIffSomeRowMatches : Obligations.WordDecodesIffSomeRowMatches := by
  intro op
  have hrow (i : Instr) (hi : decodeWord op = .ok i) :
      i.row.covers op = true ∧ i.row ∈ opcodeTable := by
    rw [← encodeOfDecodeIsTheWord op i hi]; exact fixedBits_all i
  refine ⟨⟨fun ⟨i, hi⟩ => ?_, fun hw => ?_⟩, fun i hi => (hrow i hi).1⟩
  · obtain ⟨hcov, hmem⟩ := hrow i hi
    exact List.any_eq_true.mpr ⟨i.row, hmem, hcov⟩
  · obtain ⟨row, hmem, hcov⟩ := List.any_eq_true.mp hw
    rcases decodeWord_reads op with ⟨hu, _⟩ | ⟨_, i, hi, _⟩
    · exact absurd hu (not_unknownWord_of_covers hmem hcov)
    · exact ⟨i, hi⟩

end Sys2Proof

/-! SUPPORT. The step cycle, branch by branch (40_step_cycle.md R90 to R101): what the tick does to each
part of the state, how an instruction's ending is told, and what a step answers on each of its branches,
for either value of TICK_WHILE_WAITING. -/

namespace Sys2Proof.Machine

/-! ## The tick -/

/-- Counting down by 1 unless 0 is truncated subtraction. -/
theorem toNat_countDown (v : Byte) : (if 0 < v.toNat then v - 1 else v).toNat = v.toNat - 1 := by
  split <;> bv_omega

@[simp] theorem State.tick_pc (s : State) : s.tick.pc = s.pc := by rw [s.tick_spec]

@[simp] theorem State.tick_dt_toNat (s : State) : s.tick.dt.toNat = s.dt.toNat - 1 := by
  rw [s.tick_spec]; exact toNat_countDown s.dt

@[simp] theorem State.tick_st_toNat (s : State) : s.tick.st.toNat = s.st.toNat - 1 := by
  rw [s.tick_spec]; exact toNat_countDown s.st

theorem State.tick_events (s : State) :
    s.tick.events = if s.tick.st = 0 then .silence :: s.events else s.events := by
  rw [s.tick_spec]

theorem State.tick_eventStream_of_silent {s : State} (h : s.tick.st.toNat = 0) :
    s.tick.eventStream = s.eventStream ++ [.silence] := by
  have hst : s.tick.st = 0 := BitVec.eq_of_toNat_eq h
  rw [State.eventStream, s.tick_events, if_pos hst]; exact List.reverse_cons

theorem State.tick_eventStream_of_sounding {s : State} (h : s.tick.st.toNat ≠ 0) :
    s.tick.eventStream = s.eventStream := by
  have hst : s.tick.st ≠ 0 := fun he => h (by rw [he]; rfl)
  rw [State.eventStream, s.tick_events, if_neg hst, State.eventStream]

@[simp] theorem State.emit_eventStream (s : State) (e : Event) :
    (s.emit e).eventStream = s.eventStream ++ [e] := List.reverse_cons

section
variable {w : List Part} {s t : State}

theorem Frame.emit (h : Frame w s t) (e : Event) (hw : .events ∈ w := by simp) :
    Frame w s (t.emit e) := { h with events := fun hn => absurd hw hn }

theorem Frame.tick (h : Frame w s t) (hdt : .dt ∈ w := by simp) (hst : .st ∈ w := by simp)
    (hev : .events ∈ w := by simp) : Frame w s t.tick := by
  rw [t.tick_spec]
  exact { h with
    dt := fun hn => absurd hdt hn
    st := fun hn => absurd hst hn
    events := fun hn => absurd hev hn }

end

/-- Settles O11: each field of the ticked state, read off `State.tick_spec`. -/
theorem tickCountsDownAndCuesSilence : Obligations.TickCountsDownAndCuesSilence := fun s =>
  ⟨_, rfl, s.tick_dt_toNat, s.tick_st_toNat, State.tick_eventStream_of_silent,
    State.tick_eventStream_of_sounding, s.tick_pc, (Frame.refl s).tick⟩

/-! ## How an instruction ended -/

section
variable {i : Instr} {s t : State}

theorem ending_of_fault (h : t.fault ≠ none) : ending i s t = .faulted := by
  simp [ending, Option.isSome_iff_ne_none.mpr h]

theorem ending_of_wait (h : t.fault = none) (hw : waitsForKey i s = true) :
    ending i s t = .wait := by simp [ending, h, hw]

theorem ending_of_done (h : t.fault = none) (hw : waitsForKey i s = false) :
    ending i s t = .done := by simp [ending, h, hw]

end

/-- No key is pressed exactly when every level is 0. -/
theorem State.pressedKeys_eq_nil (s : State) :
    s.pressedKeys = [] ↔ ∀ k, (h : k < 16) → s.keys[k] = false := by
  simp [List.eq_nil_iff_forall_not_mem, s.mem_pressedKeys]

/-- Fx0A with no key pressed writes nothing (48_familyF.md R181). -/
theorem exec_ldVxK_of_no_key {s : State} (x : Reg) (h : s.pressedKeys = []) :
    exec (.ldVxK x) s = .next s := if_pos h

/-! ## The branches of a step -/

/-- A state that has halted or faulted is not enabled (R90). -/
theorem State.enabled_eq_false (s : State) :
    s.enabled = false ↔ s.running = false ∨ s.fault ≠ none := by
  rw [← Bool.not_eq_true, s.enabled_iff, Decidable.not_and_iff_or_not, Bool.not_eq_true]

/-- A fetch past memory has no word (R91). -/
theorem State.fetch_eq_none {s : State} (h : 0xFFE < s.pc.toNat) : s.fetch = none := if_pos h

/-- Two bytes decode as the word they make. -/
theorem decodeWord_of_decode {first second : Byte} {i : Instr}
    (h : decode [first, second] = .ok (i, [])) : decodeWord (wordOfBytes first second) = .ok i := by
  cases hd : decodeWord (wordOfBytes first second) with
  | error e => simp [decode, hd] at h
  | ok j => simpa [decode, hd] using h

section
variable {s t : State} {op : Word} {i : Instr} {e : DecodeError} (tww : Bool)

theorem stepWith_of_not_enabled (h : s.enabled = false) : stepWith tww s = .next s := by
  simp [stepWith, h]

theorem stepWith_of_fetch_eq_none (hen : s.enabled = true) (hf : s.fetch = none) :
    stepWith tww s = .next s.fetchFault := by simp [stepWith, hen, hf]

theorem stepWith_of_unknown (hen : s.enabled = true) (hf : s.fetch = some op)
    (hd : decodeWord op = .error e) : stepWith tww s = .next (execUnknown op s).tick := by
  simp [stepWith, hen, hf, hd]

theorem stepWith_of_exec (hen : s.enabled = true) (hf : s.fetch = some op)
    (hd : decodeWord op = .ok i) (hx : exec i s = .next t) :
    stepWith tww s = .next (State.commit tww (ending i s t) s t) := by
  simp [stepWith, hen, hf, hd, hx, finishStep]

end

/-- The host's Step answers what the machine's step leaves, and notes that a Step has been requested. -/
theorem Session.transact_step {p : Parameters} {s t : State}
    (h : stepWith p.tickWhileWaiting s = .next t) (b : Bool) :
    Session.transact p ⟨s, b⟩ .step = .next ⟨t, true⟩ := by simp [Session.transact, h]

/-- Any number of steps leaves a state that is not enabled. -/
theorem run_of_not_enabled {s : State} (h : s.enabled = false) (k : Nat) :
    Host.Core.run Sys2Proof.core k s = .next s := by
  have hstep : Sys2Proof.core.step s = .next s := stepWith_of_not_enabled tickWhileWaiting h
  induction k with
  | zero => rfl
  | succ k ih => simpa only [Host.Core.run, hstep] using ih

/-- Settles O6: the fetched word decodes to the instruction, whose ending says what is committed. -/
theorem stepRunsTheDecodedInstruction : Obligations.StepRunsTheDecodedInstruction := by
  intro s t i hrun hfault hpc hd _ hx
  have hstep : step s = .next (State.commit tickWhileWaiting (ending i s t) s t) :=
    stepWith_of_exec _ (s.enabled_iff.mpr ⟨hrun, hfault⟩) (State.fetch_eq_some hpc)
      (decodeWord_of_decode hd) hx
  refine ⟨fun hf => ?_, fun hf hw => ?_, fun hf hw => ?_⟩ <;> rw [hstep]
  · rw [ending_of_fault hf, State.commit_faulted]
  · rw [ending_of_wait hf hw, tickWhileWaiting, State.commit_wait]
  · rw [ending_of_done hf hw, State.commit_done]

/-- Settles O7: such a state is not enabled, and no transaction but Step asks whether it is. -/
theorem stepIsInertWhenHaltedOrFaulted : Obligations.StepIsInertWhenHaltedOrFaulted := by
  intro p s b h
  have hen : s.enabled = false := s.enabled_eq_false.mpr h
  exact ⟨run_of_not_enabled hen, Session.transact_step (stepWith_of_not_enabled _ hen) b,
    fun _ _ => rfl, rfl, rfl⟩

/-- Settles O8: the fetch has no word, and the fault writes its record alone. -/
theorem fetchPastMemoryFaults : Obligations.FetchPastMemoryFaults := fun s hrun hfault hpc =>
  ⟨s.fetchFault,
    stepWith_of_fetch_eq_none _ (s.enabled_iff.mpr ⟨hrun, hfault⟩) (State.fetch_eq_none hpc),
    rfl, rfl, (Frame.refl s).raise _ _ _⟩

/-- Settles O9: the report and the fall-through, then the tick with its cue. -/
theorem unknownWordIsReportedAndSkipped : Obligations.UnknownWordIsReportedAndSkipped := by
  intro s op e hrun hfault hf hd
  have hreport : (execUnknown op s).eventStream = s.eventStream ++ [.unknownOpcode op] :=
    s.emit_eventStream _
  refine ⟨_, stepWith_of_unknown _ (s.enabled_iff.mpr ⟨hrun, hfault⟩) hf hd, ?_,
    State.tick_dt_toNat _, State.tick_st_toNat _, fun hst => ?_, fun hst => ?_,
    ((Frame.refl s).emit _).advance.tick⟩
  · rw [FallsThrough, State.tick_pc]; exact BitVec.toNat_add s.pc 2
  · rw [State.tick_eventStream_of_silent hst, hreport, List.append_assoc]; rfl
  · rw [State.tick_eventStream_of_sounding hst, hreport]

/-- Settles O12: the instruction writes nothing and ends in a wait, which commits the state before it,
ticked only when the parameter says so. -/
theorem waitingStepHoldsTheTimers : Obligations.WaitingStepHoldsTheTimers := by
  intro s op x hrun hfault hf hd hkeys
  have hnone : s.pressedKeys = [] := s.pressedKeys_eq_nil.mpr hkeys
  have hwait : ending (.ldVxK x) s s = .wait :=
    ending_of_wait hfault ((waitsForKey_iff _ s).mpr ⟨⟨x, rfl⟩, hnone⟩)
  have hstep (tww : Bool) : stepWith tww s = .next (if tww then s.tick else s) := by
    rw [stepWith_of_exec tww (s.enabled_iff.mpr ⟨hrun, hfault⟩) hf hd (exec_ldVxK_of_no_key x hnone),
      hwait]
    rfl
  exact ⟨hstep tickWhileWaiting, fun p b => Session.transact_step (hstep p.tickWhileWaiting) b⟩

end Sys2Proof.Machine

/-! SUPPORT. Family 0 (41_family0_system.md): the fall-through, the cleared plane, and a return that
follows a call, each as a rule of its own. -/

namespace Sys2Proof.Machine

/-! ## The rules -/

/-- The pc two on, as the number that R94 gives. -/
theorem fallsThrough_of_pc_eq {s t : State} (h : t.pc = s.pc + 2) : FallsThrough s t := by
  rw [FallsThrough, h]; exact BitVec.toNat_add s.pc 2

theorem vector_getD_set_ne {α : Type} {n : Nat} (v : Vector α n) {k j : Nat} (x d : α) (hk : k < n)
    (hne : j ≠ k) : (v.set k x hk).getD j d = v.getD j d := by
  rw [vector_getD_eq, vector_getD_eq, Vector.getElem?_set_ne hk hne.symm]

/-- Clearing turns every cell of the active plane off (41_family0_system.md R110). -/
@[simp] theorem State.activeCell_clearActive (s : State) (c r : Nat) :
    s.clearActive.activeCell c r = false := by
  rcases s.clearActive_cases with ⟨hm, he⟩ | ⟨hm, he⟩ <;> simp [he, State.activeCell, hm]

/-- A machine halted before the tick is not enabled after it (40_step_cycle.md R90). -/
theorem State.tick_not_enabled_of_halted {s : State} (h : s.running = false) :
    s.tick.enabled = false := by
  rw [State.enabled_eq_false, s.tick_spec]; exact .inl h

/-- A return in the state that a call leaves pops the call's own address: sp is as it was and the pc
goes past the call (41_family0_system.md R111; 42_flow_1_to_5.md R121). -/
theorem execRet_after_call {s : State} (nnn : Addr) (h : s.sp.val < 16) :
    execRet { s with
        stack := s.stack.set s.sp.val s.pc h, sp := ⟨s.sp.val + 1, by omega⟩, pc := addrWord nnn } =
      .next { s with stack := s.stack.set s.sp.val s.pc h, pc := s.pc + 2 } := by
  rw [execRet_of_pos (Nat.succ_pos _)]
  simp

/-! ## The obligations -/

/-- Settles O31: clearing turns the active plane off, and the instruction's frame keeps the rest. -/
theorem clearZeroesTheActivePlane : Obligations.ClearZeroesTheActivePlane := by
  intro s
  have hx : exec .cls s = .next s.clearActive.markDrawn.advance := rfl
  obtain ⟨hext, hstd, _⟩ := exec_inactiveKept hx
  exact ⟨_, hx, fallsThrough_of_pc_eq (by simp), rfl, s.activeCell_clearActive, hext, hstd,
    exec_frame hx⟩

/-- Settles O32: the two ends of a return, by whether a slot is occupied. -/
theorem returnGoesPastTheCallSite : Obligations.ReturnGoesPastTheCallSite := by
  refine fun s => ⟨fun hzero => ?_, fun hpos => ?_⟩
  · exact ⟨_, execRet_of_empty hzero, rfl, rfl, (Frame.refl s).raise _ _ _⟩
  · refine ⟨_, execRet_of_pos hpos, rfl, ?_, { Frame.refl s with sp := by simp }⟩
    rw [vector_getD_of_lt s.stack 0 (by omega)]
    exact BitVec.toNat_add _ 2

/-- Settles O33: the instruction halts, and a halted machine is not enabled after its tick. -/
theorem exitHaltsTheMachine : Obligations.ExitHaltsTheMachine := by
  intro s
  have hx : exec .exit s = .next s.halt.advance := rfl
  exact ⟨_, hx, fallsThrough_of_pc_eq rfl, rfl, exec_frame hx,
    run_of_not_enabled (State.tick_not_enabled_of_halted rfl)⟩

/-- Settles O34: each writes the mode alone and falls through. -/
theorem modeInstructionsSetTheMode : Obligations.ModeInstructionsSetTheMode := by
  intro s
  have hlow : exec .low s = .next (s.setMode .standard).advance := rfl
  have hhigh : exec .high s = .next (s.setMode .extended).advance := rfl
  exact ⟨⟨_, hlow, fallsThrough_of_pc_eq rfl, rfl, exec_frame hlow⟩,
    ⟨_, hhigh, fallsThrough_of_pc_eq rfl, rfl, exec_frame hhigh⟩⟩

/-- Settles O37: the return pops what the call pushed, so only the slot at sp differs. -/
theorem callThenReturnComesBack : Obligations.CallThenReturnComesBack := fun nnn s hlt =>
  ⟨_, _, execCall_of_lt nnn hlt, execRet_after_call nnn hlt, fallsThrough_of_pc_eq rfl,
    fun _ hj => vector_getD_set_ne s.stack _ _ hlt hj,
    { Frame.refl s with stack := by simp }⟩

end Sys2Proof.Machine

/-! SUPPORT. Jumps, the call and the skips on a comparison (42_flow_1_to_5.md, and R150 and R152 of
45_family9_to_C.md): the targets as numbers, and what a skip does by its condition. -/

namespace Sys2Proof.Machine

/-! ## The targets -/

theorem addrWord_toNat (nnn : Addr) : (addrWord nnn).toNat = nnn.toNat :=
  BitVec.toNat_setWidth_of_le (by decide)

/-- 0xFFF + 0xFF lies far below 65536, so the 16-bit sum never wraps (45_family9_to_C.md R152). -/
theorem indexedTarget_toNat (nnn : Addr) (v0 : Byte) :
    (indexedTarget nnn v0).toNat = nnn.toNat + v0.toNat := by
  rw [indexedTarget, BitVec.toNat_add, addrWord_toNat, BitVec.toNat_setWidth_of_le (by decide)]
  exact Nat.mod_eq_of_lt (by omega)

/-! ## The call's word -/

theorem encode_call (nnn : Addr) : encode (.call nnn) = BitVec.ofNat 16 (0x2000 + nnn.toNat) := by
  refine BitVec.eq_of_toNat_eq ((formatNNN_toNat 0x2 nnn).trans ?_)
  rw [BitVec.toNat_ofNat, Nat.mod_eq_of_lt (by omega)]
  rfl

/-! ## The skips on a comparison of two bytes -/

/-- The pc four on, as the number that R94 gives. -/
theorem skips_of_pc_eq {s t : State} (h : t.pc = s.pc + 4) : Skips s t := by
  rw [Skips, h]; exact BitVec.toNat_add s.pc 4

section
variable (s : State) (a b : Byte)

/-- A skip on equality (40_step_cycle.md R94; 42_flow_1_to_5.md R122, R124). -/
theorem State.skipIf_beq_spec : Frame [] s (s.skipIf (a == b)) ∧
    (a.toNat = b.toNat → Skips s (s.skipIf (a == b))) ∧
    (a.toNat ≠ b.toNat → FallsThrough s (s.skipIf (a == b))) := by
  refine ⟨(Frame.refl s).skipIf _, fun heq => skips_of_pc_eq ?_, fun hne => fallsThrough_of_pc_eq ?_⟩
  · simp [BitVec.eq_of_toNat_eq heq]
  · simp [BitVec.toNat_ne_iff_ne.mp hne]

/-- A skip on difference (40_step_cycle.md R94; 42_flow_1_to_5.md R123, 45_family9_to_C.md R150). -/
theorem State.skipIf_bne_spec : Frame [] s (s.skipIf (a != b)) ∧
    (a.toNat ≠ b.toNat → Skips s (s.skipIf (a != b))) ∧
    (a.toNat = b.toNat → FallsThrough s (s.skipIf (a != b))) := by
  refine ⟨(Frame.refl s).skipIf _, fun hne => skips_of_pc_eq ?_, fun heq => fallsThrough_of_pc_eq ?_⟩
  · simp [BitVec.toNat_ne_iff_ne.mp hne]
  · simp [BitVec.eq_of_toNat_eq heq]

end

/-! ## The obligations -/

/-- Settles O35: the two targets as numbers; the indexed one never reaches 65536, so reducing it
changes nothing. -/
theorem jumpsSetThePc : Obligations.JumpsSetThePc := by
  intro nnn s
  have hjp : exec (.jp nnn) s = .next (s.jump (addrWord nnn)) := rfl
  have hjpV0 : exec (.jpV0 nnn) s = .next (s.jump (indexedTarget nnn (s.getV 0))) := rfl
  have hsum := indexedTarget_toNat nnn (s.getV 0)
  exact ⟨⟨_, hjp, addrWord_toNat nnn, exec_frame hjp⟩,
    ⟨_, hjpV0, hsum.trans (Nat.mod_eq_of_lt (by omega)).symm, hsum, exec_frame hjpV0⟩⟩

/-- Settles O36: the two ends of a call, by whether a slot is free. -/
theorem callPushesItsOwnAddress : Obligations.CallPushesItsOwnAddress := by
  refine fun nnn s => ⟨fun hfull => ?_, fun hlt => ?_⟩
  · exact ⟨_, execCall_of_full nnn hfull, by rw [← encode_call]; rfl, rfl,
      (Frame.refl s).raise _ _ _⟩
  · refine ⟨_, execCall_of_lt nnn hlt, addrWord_toNat nnn, rfl, ?_,
      fun _ hj => vector_getD_set_ne s.stack _ _ hlt hj,
      { Frame.refl s with stack := by simp, sp := by simp }⟩
    exact (vector_getD_of_lt _ 0 hlt).trans (Vector.getElem_set_self hlt)

/-- Settles O38: 3xnn skips on equality with nn, 4xnn on difference. -/
theorem immediateSkipsCompare : Obligations.ImmediateSkipsCompare := fun x nn s =>
  ⟨⟨_, rfl, s.skipIf_beq_spec (s.getV x) nn⟩, ⟨_, rfl, s.skipIf_bne_spec (s.getV x) nn⟩⟩

/-- Settles O39: 5xy0 skips on equality of Vx and Vy, 9xy0 on difference. -/
theorem registerSkipsCompare : Obligations.RegisterSkipsCompare := fun x y s =>
  ⟨⟨_, rfl, s.skipIf_beq_spec (s.getV x) (s.getV y)⟩,
    ⟨_, rfl, s.skipIf_bne_spec (s.getV x) (s.getV y)⟩⟩

end Sys2Proof.Machine

/-! SUPPORT. The immediate load and add (43_immediate_6_7.md): what an instruction that writes one
register and falls through does. -/

namespace Sys2Proof.Machine

/-! ## A register written, and the next instruction -/

/-- One register holds the new value and the pc falls through; VF counts as any other register, so no
flag is written (10_state.md R22; 40_step_cycle.md R94). -/
theorem State.setV_advance_spec (s : State) (x : Reg) (v : Byte) :
    FallsThrough s (s.setV x v).advance ∧ (s.setV x v).advance.getV x = v ∧
      RegsKeptBut [x] s (s.setV x v).advance ∧ Frame [.regs] s (s.setV x v).advance :=
  ⟨fallsThrough_of_pc_eq rfl, s.getV_setV_same x v,
    fun _ hj => s.getV_setV_ne v (List.ne_of_not_mem_cons hj), ((Frame.refl s).setV x v).advance⟩

/-! ## The obligation -/

/-- Settles O40: both write Vx alone, the load with nn, the add with the byte sum. -/
theorem immediateLoadAndAdd : Obligations.ImmediateLoadAndAdd := by
  intro x nn s
  have hld : exec (.ldImm x nn) s = .next (s.setV x nn).advance := rfl
  have hadd : exec (.addImm x nn) s = .next (s.setV x (s.getV x + nn)).advance := rfl
  constructor
  · obtain ⟨hpc, hvx, hkept, hframe⟩ := s.setV_advance_spec x nn
    exact ⟨_, hld, hpc, congrArg BitVec.toNat hvx, hkept, hframe⟩
  · obtain ⟨hpc, hvx, hkept, hframe⟩ := s.setV_advance_spec x (s.getV x + nn)
    exact ⟨_, hadd, hpc, (congrArg BitVec.toNat hvx).trans (BitVec.toNat_add _ _), hkept, hframe⟩

end Sys2Proof.Machine

/-! SUPPORT. Family 8 (44_alu_8.md): the flags and the shifts as numbers, and what an instruction that
writes Vx and VF leaves alone. -/

namespace Sys2Proof.Machine

/-! ## Flags and byte results as numbers -/

theorem flagByte_toNat (b : Bool) : (flagByte b).toNat = b.toNat := by cases b <;> rfl

theorem carryByte_toNat (a b : Byte) :
    (flagByte (carryFlag a b)).toNat = if 255 < a.toNat + b.toNat then 1 else 0 := by
  rw [flagByte_toNat, carryFlag]
  exact Bool.cond_decide ..

theorem noBorrowByte_toNat (a b : Byte) :
    (flagByte (noBorrowFlag a b)).toNat = if a.toNat < b.toNat then 0 else 1 := by
  rw [flagByte_toNat, noBorrowFlag]
  split <;> simp [*]

/-- The byte difference is the integer difference modulo 256 (44_alu_8.md R145, R147). -/
theorem byteDifference_toNat (a b : Byte) :
    ((a - b).toNat : Int) = ((a.toNat : Int) - b.toNat) % 256 := by
  rw [BitVec.toNat_sub]
  omega

theorem lowBit_toNat (a : Byte) : (lowBit a).toNat = a.toNat % 2 :=
  (BitVec.toNat_and _ _).trans (Nat.and_one_is_mod _)

theorem byteShiftRight_toNat (a : Byte) : (a >>> 1).toNat = a.toNat / 2 := rfl

theorem byteShiftLeft_toNat (a : Byte) : (a <<< 1).toNat = a.toNat * 2 % 256 := by
  rw [BitVec.toNat_shiftLeft, Nat.shiftLeft_eq]

/-- Bit 7 is all that is left of the byte above its low seven bits. -/
theorem highBit_toNat (a : Byte) : (highBit a).toNat = a.toNat / 128 := by
  have hshift : (a >>> 7).toNat = a.toNat / 128 := by
    rw [BitVec.toNat_ushiftRight, Nat.shiftRight_eq_div_pow]
  rw [← hshift]
  refine (lowBit_toNat (a >>> 7)).trans (Nat.mod_eq_of_lt ?_)
  omega

/-- The bit that 8xy6 shifts out is shifted out in turn with x = F (44_alu_8.md R146). -/
theorem lowBit_shiftRight_toNat (a : Byte) : (lowBit a >>> 1).toNat = 0 := by
  rw [byteShiftRight_toNat, lowBit_toNat]
  omega

/-- The bit that 8xyE shifts out moves up to bit 1 with x = F (44_alu_8.md R148). -/
theorem highBit_shiftLeft_toNat (a : Byte) :
    (highBit a <<< 1).toNat = if 0x80 ≤ a.toNat then 2 else 0 := by
  rw [byteShiftLeft_toNat, highBit_toNat]
  split <;> omega

/-! ## What Vx and VF written leaves alone -/

/-- Registers written and the pc two on: the pc falls through and every other part is kept. -/
theorem frame_of_vreg_pc {s t : State} (h : t = { s with vreg := t.vreg, pc := s.pc + 2 }) :
    FallsThrough s t ∧ Frame [.regs] s t := by
  refine ⟨fallsThrough_of_pc_eq (congrArg State.pc h), ?_⟩
  rw [h]
  exact { Frame.refl s with regs := by simp }

/-- No register but `x` and VF changed, in the form of a frame. -/
theorem regsKeptBut_flag {s t : State} {x : Reg}
    (h : ∀ j, j ≠ x → j ≠ Reg.flag → t.getV j = s.getV j) : RegsKeptBut [x, Reg.flag] s t := by
  intro j hj
  obtain ⟨hx, hflag⟩ := List.ne_and_not_mem_of_not_mem_cons hj
  exact h j hx (List.ne_of_not_mem_cons hflag)

/-! ## The obligations -/

/-- Settles O43: each writes Vx alone, and a bit of the result comes from that bit of the operands. -/
theorem copyAndLogicWriteNoFlag : Obligations.CopyAndLogicWriteNoFlag := by
  intro x y s
  refine ⟨⟨_, rfl, s.setV_advance_spec x (s.getV y)⟩, ?_, ?_, ?_⟩
  · obtain ⟨hpc, hvx, hrest⟩ := s.setV_advance_spec x (s.getV x ||| s.getV y)
    exact ⟨_, rfl, hpc, fun b => by rw [hvx, BitVec.getLsbD_or], hrest⟩
  · obtain ⟨hpc, hvx, hrest⟩ := s.setV_advance_spec x (s.getV x &&& s.getV y)
    exact ⟨_, rfl, hpc, fun b => by rw [hvx, BitVec.getLsbD_and], hrest⟩
  · obtain ⟨hpc, hvx, hrest⟩ := s.setV_advance_spec x (s.getV x ^^^ s.getV y)
    exact ⟨_, rfl, hpc, fun b => by rw [hvx, BitVec.getLsbD_xor], hrest⟩

/-- Settles O44: the byte sum goes to Vx, and then the carry to VF. -/
theorem addWritesSumThenCarry : Obligations.AddWritesSumThenCarry := by
  intro x y s
  obtain ⟨t, hexec, hvf, hvx, hkept, ht⟩ :=
    s.putResultFlag_spec x (s.getV x + s.getV y) (carryFlag (s.getV x) (s.getV y))
  obtain ⟨hpc, hframe⟩ := frame_of_vreg_pc ht
  refine ⟨t, hexec, hpc, fun hx => ?_, fun hcarry => ?_, fun hfits => ?_,
    regsKeptBut_flag hkept, hframe⟩
  · rw [hvx hx, BitVec.toNat_add]
  · rw [hvf, carryByte_toNat, if_pos hcarry]
  · rw [hvf, carryByte_toNat, if_neg (Nat.not_lt.mpr hfits)]

/-- A difference written to Vx, and then its no-borrow flag to VF, whichever order the operands come in
(44_alu_8.md R145, R147). -/
theorem State.putDifference_spec (s : State) (x : Reg) (a b : Byte) :
    ∃ t, s.putResultFlag x (a - b) (noBorrowFlag a b) = .next t ∧ FallsThrough s t ∧
      (x ≠ Reg.flag → ((t.getV x).toNat : Int) = ((a.toNat : Int) - b.toNat) % 256) ∧
      (a.toNat < b.toNat → (t.getV Reg.flag).toNat = 0) ∧
      (b.toNat ≤ a.toNat → (t.getV Reg.flag).toNat = 1) ∧
      RegsKeptBut [x, Reg.flag] s t ∧ Frame [.regs] s t := by
  obtain ⟨t, hput, hvf, hvx, hkept, ht⟩ := s.putResultFlag_spec x (a - b) (noBorrowFlag a b)
  obtain ⟨hpc, hframe⟩ := frame_of_vreg_pc ht
  refine ⟨t, hput, hpc, fun hx => ?_, fun hborrow => ?_, fun hfits => ?_,
    regsKeptBut_flag hkept, hframe⟩
  · rw [hvx hx, byteDifference_toNat]
  · rw [hvf, noBorrowByte_toNat, if_pos hborrow]
  · rw [hvf, noBorrowByte_toNat, if_neg (Nat.not_lt.mpr hfits)]

/-- Settles O45: one difference, with the operands in either order. -/
theorem subtractionsWriteDifferenceThenNoBorrow :
    Obligations.SubtractionsWriteDifferenceThenNoBorrow := fun x y s =>
  ⟨s.putDifference_spec x (s.getV x) (s.getV y), s.putDifference_spec x (s.getV y) (s.getV x)⟩

/-- A bit written to VF and then the shift `f` of what Vx holds: with x = F the shift applies to that bit
(44_alu_8.md R146, R148). -/
theorem State.flagThenShift_spec (s : State) (x : Reg) (bit : Byte) (f : Byte → Byte)
    {shifted out shiftedBit : Nat} (hshift : (f (s.getV x)).toNat = shifted)
    (hout : bit.toNat = out) (hbit : (f bit).toNat = shiftedBit) :
    ∃ t, s.flagThenResult x bit f = .next t ∧ FallsThrough s t ∧
      (x ≠ Reg.flag → (t.getV x).toNat = shifted ∧ (t.getV Reg.flag).toNat = out) ∧
      (x = Reg.flag → (t.getV Reg.flag).toNat = shiftedBit) ∧
      RegsKeptBut [x, Reg.flag] s t ∧ Frame [.regs] s t := by
  obtain ⟨t, hexec, hother, hself, hkept, ht⟩ := s.flagThenResult_spec x bit f
  obtain ⟨hpc, hframe⟩ := frame_of_vreg_pc ht
  refine ⟨t, hexec, hpc, fun hx => ?_, fun hx => ?_, regsKeptBut_flag hkept, hframe⟩
  · obtain ⟨hvf, hvx⟩ := hother hx
    rw [hvf, hvx]
    exact ⟨hshift, hout⟩
  · rw [hself hx, hbit]

/-- Settles O46: the same two writes in either direction; Vy stands in neither of them. -/
theorem shiftsWriteFlagThenShift : Obligations.ShiftsWriteFlagThenShift := fun x _ s =>
  ⟨s.flagThenShift_spec x (lowBit (s.getV x)) (· >>> 1) (byteShiftRight_toNat _) (lowBit_toNat _)
      (lowBit_shiftRight_toNat _),
    s.flagThenShift_spec x (highBit (s.getV x)) (· <<< 1) (byteShiftLeft_toNat _) (highBit_toNat _)
      (highBit_shiftLeft_toNat _),
    fun _ => ⟨rfl, rfl⟩⟩

end Sys2Proof.Machine

/-! SUPPORT. The index load and the random byte (45_family9_to_C.md R151, R153). -/

namespace Sys2Proof.Machine

/-! ## The obligations -/

/-- Settles O41: I takes the address zero-extended, and the instruction's frame keeps the rest. -/
theorem indexLoadSetsI : Obligations.IndexLoadSetsI := by
  intro nnn s
  have hx : exec (.ldI nnn) s = .next (s.setI (addrWord nnn)).advance := rfl
  exact ⟨_, hx, fallsThrough_of_pc_eq rfl, addrWord_toNat nnn, exec_frame hx⟩

/-- Settles O42: the draw is counted first, which leaves the pc and the registers alone; the masked byte
is then written as any other. Of the free source only the byte at the draw counter is named, and nothing
is assumed of it (log entry 2). -/
theorem randomByteIsDrawnAndMasked : Obligations.RandomByteIsDrawnAndMasked := by
  intro x nn s
  have hx : exec (.rnd x nn) s =
      .next (s.countDraw.setV x (Config.randomByte s.draws &&& nn)).advance := rfl
  obtain ⟨hpc, hvx, hkept, _⟩ := s.countDraw.setV_advance_spec x (Config.randomByte s.draws &&& nn)
  exact ⟨_, hx, hpc, fun b => by rw [hvx, BitVec.getLsbD_and], Nat.lt_succ_self s.draws, hkept,
    exec_frame hx⟩

end Sys2Proof.Machine

/-! SUPPORT. The sprite draw as an instruction (46_draw_D.md): the two ends of Dxyn, what the drawn state
holds cell by cell whichever plane is active, and that a second draw lands on the cells of the first. -/

namespace Sys2Proof.Machine

/-! ## A block instruction by its range check -/

/-- A block that lies in memory: the instruction completes (20_memory.md R60). -/
theorem State.withBlock_of_fits {s : State} {i : Instr} {len : Nat} (done : State)
    (h : ∀ k, k < len → s.ireg.toNat + k ≤ 0xFFF) : s.withBlock i len done = .next done := by
  simp only [State.withBlock, outOfRange_eq_none.mpr h]

/-- A block that reaches past memory: the instruction only records MEM_OUT_OF_RANGE (20_memory.md R60,
60_exceptions.md R203). -/
theorem State.withBlock_of_past {s : State} {i : Instr} {len : Nat} (done : State) (hlen : 0 < len)
    (h : 0xFFF < s.ireg.toNat + len - 1) : s.withBlock i len done =
      .next (s.raise .memOutOfRange (some (encode i)) (some (max s.ireg.toNat 0x1000))) := by
  simp only [State.withBlock, outOfRange_eq_some.mpr ⟨⟨hlen, h⟩, rfl⟩]

/-- Dxyn with every row in memory draws them, and sets draw_pending (46_draw_D.md R160). -/
theorem exec_drw_of_fits (x y : Reg) {n : Count} {s : State}
    (h : ∀ k, k < n.toNat → s.ireg.toNat + k ≤ 0xFFF) : exec (.drw x y n) s =
      .next (s.drawSprite (s.getV x).toNat (s.getV y).toNat
        (Memory.readBytes s.mem s.ireg.toNat n.toNat)).markDrawn.advance :=
  State.withBlock_of_fits _ h

theorem encode_drw (x y : Reg) (n : Count) : encode (.drw x y n) =
    BitVec.ofNat 16 (0xD000 + x.toNat * 256 + y.toNat * 16 + n.toNat) := by
  refine BitVec.eq_of_toNat_eq ((formatXYN_toNat 0xD x y n).trans ?_)
  rw [BitVec.toNat_ofNat, Nat.mod_eq_of_lt (by omega)]
  rfl

/-! ## The cells a sprite lands on -/

/-- Planes with the same cells are equal. -/
theorem Plane.ext_cell {w h : Nat} {p q : Plane w h} (hcell : ∀ c r, p.cell c r = q.cell c r) :
    p = q := by
  refine Vector.ext fun r hr => BitVec.eq_of_getLsbD_eq fun c _ => ?_
  simpa only [Plane.cell, vector_getD_of_lt _ _ hr] using hcell c r

/-- A state with the active cells of another, and its inactive plane, has both of its planes. -/
theorem planes_eq_of_activeCell {s t : State} (hmode : t.mode = s.mode)
    (hext : s.mode = .standard → t.pext = s.pext) (hstd : s.mode = .extended → t.pstd = s.pstd)
    (hcell : ∀ c r, t.activeCell c r = s.activeCell c r) : t.pstd = s.pstd ∧ t.pext = s.pext := by
  cases hm : s.mode with
  | standard =>
    simp only [State.activeCell, hmode, hm] at hcell
    exact ⟨Plane.ext_cell hcell, hext hm⟩
  | extended =>
    simp only [State.activeCell, hmode, hm] at hcell
    exact ⟨hstd hm, Plane.ext_cell hcell⟩

/-- The rows of the sprite are the n bytes at I, and the plane is the active one. -/
theorem spriteCovers_iff (s : State) (x y n c r : Nat) :
    SpriteCovers s x y n c r ↔ SpriteRowsCover s.width s.height x y
      (Memory.readBytes s.mem s.ireg.toNat n) c r := by
  rw [SpriteRowsCover, Memory.length_readBytes]
  refine exists_congr fun dr => and_congr_right fun hdr => ?_
  rw [Memory.getD_readBytes s.mem hdr, RowCovers]

/-- Where a sprite lands depends on the mode, I and memory alone. -/
theorem spriteCovers_congr {s t : State} (hmode : t.mode = s.mode) (hireg : t.ireg = s.ireg)
    (hmem : ∀ a, Memory.read t.mem a = Memory.read s.mem a) (x y n c r : Nat) :
    SpriteCovers t x y n c r ↔ SpriteCovers s x y n c r := by
  simp only [SpriteCovers, State.width, State.height, hmode, hireg, hmem]

/-! ## The drawn state -/

section
variable (s : State) (x y : Nat) {sprite : List Byte}

/-- A sprite without rows draws nothing, so nothing collides (46_draw_D.md R165). -/
theorem State.drawSprite_nil : s.drawSprite x y [] = s.setFlag false := by
  rcases s.drawSprite_cases x y [] with ⟨_, he⟩ | ⟨_, he⟩ <;> exact he

/-- In either mode a sprite complements exactly the cells of the active plane that it lands on
(46_draw_D.md R160, R161). No sprite has more rows than the smaller plane, so none lands twice. -/
theorem State.activeCell_drawSprite (hlen : sprite.length ≤ 32) (c r : Nat) :
    (SpriteRowsCover s.width s.height x y sprite c r →
      (s.drawSprite x y sprite).activeCell c r = !s.activeCell c r) ∧
    (¬ SpriteRowsCover s.width s.height x y sprite c r →
      (s.drawSprite x y sprite).activeCell c r = s.activeCell c r) := by
  rcases s.drawSprite_cases x y sprite with ⟨hm, he⟩ | ⟨hm, he⟩ <;>
    simp only [he, State.activeCell, State.width, State.height, State.setFlag_mode, hm]
  · exact Canvas.cell_rows sprite ⟨s.pstd, false⟩ x y (by decide) hlen (by decide)
  · exact Canvas.cell_rows sprite ⟨s.pext, false⟩ x y (by decide) (by omega) (by decide)

/-- VF is whether the sprite landed on a cell that was on (46_draw_D.md R162). -/
theorem State.getV_flag_drawSprite (hlen : sprite.length ≤ 32) :
    ∃ hit : Bool, (s.drawSprite x y sprite).getV Reg.flag = flagByte hit ∧
      (hit = true ↔
        ∃ c r, SpriteRowsCover s.width s.height x y sprite c r ∧ s.activeCell c r = true) := by
  rcases s.drawSprite_cases x y sprite with ⟨hm, he⟩ | ⟨hm, he⟩ <;>
    refine ⟨_, (congrArg (State.getV · Reg.flag) he).trans (State.getV_setFlag_same _ _), ?_⟩ <;>
    simp only [State.activeCell, State.width, State.height, hm]
  · simpa using Canvas.collided_rows sprite ⟨s.pstd, false⟩ x y (by decide) hlen (by decide)
  · simpa using Canvas.collided_rows sprite ⟨s.pext, false⟩ x y (by decide) (by omega) (by decide)

end

/-! ## The obligations -/

/-- Settles O47: the state that a draw within memory leaves, by the cells of the rows at I and by their
collision. -/
theorem drawTogglesTheSpritesCells : Obligations.DrawTogglesTheSpritesCells := by
  intro x y n s hfits
  have hx := exec_drw_of_fits x y hfits
  have hlen : (Memory.readBytes s.mem s.ireg.toNat n.toNat).length ≤ 32 := by
    rw [Memory.length_readBytes]; omega
  obtain ⟨hit, hvf, hiff⟩ := s.getV_flag_drawSprite (s.getV x).toNat (s.getV y).toNat hlen
  simp only [← spriteCovers_iff] at hiff
  obtain ⟨hext, hstd, _⟩ := exec_inactiveKept hx
  refine ⟨_, hx, fallsThrough_of_pc_eq (by simp), rfl, fun c r => ?_, fun hon => ?_, fun hoff => ?_,
    hext, hstd, fun j hj => s.getV_drawSprite_ne _ _ _ (List.ne_of_not_mem_cons hj),
    ((Frame.refl s).drawSprite _ _ _).markDrawn.advance⟩
  · rw [spriteCovers_iff]
    exact s.activeCell_drawSprite _ _ hlen c r
  · have hhit : hit = true := hiff.mpr hon
    simp [hvf, hhit, flagByte_toNat]
  · have hhit : hit = false := by
      refine Bool.eq_false_iff.mpr fun hhit => ?_
      obtain ⟨c, r, hcov, hon⟩ := hiff.mp hhit
      simp [hoff c r hcov] at hon
    simp [hvf, hhit, flagByte_toNat]

/-- Settles O50: the second draw lands on the cells of the first, since I, memory, the mode and both
coordinate registers are as they were; so it undoes each complement, and meets a cell that is on where
the first met one that was off. -/
theorem drawingTwiceErases : Obligations.DrawingTwiceErases := by
  intro x y n s hfits hxf hyf
  obtain ⟨t, hst, -, -, hcell, -, -, hext, hstd, hkept, hframe⟩ :=
    drawTogglesTheSpritesCells x y n s hfits
  have hmode : t.mode = s.mode := hframe.mode (by decide)
  have hireg : t.ireg = s.ireg := hframe.ireg (by decide)
  have hmem := hframe.mem (by decide)
  obtain ⟨u, htu, -, -, hcell', hon, hoff, hext', hstd', -, hframe'⟩ :=
    drawTogglesTheSpritesCells x y n t (by rwa [hireg])
  simp only [hkept x (by simpa using hxf), hkept y (by simpa using hyf),
    spriteCovers_congr hmode hireg hmem] at hcell' hon hoff
  have hback (c r : Nat) : u.activeCell c r = s.activeCell c r := by
    by_cases hcov : SpriteCovers s (s.getV x).toNat (s.getV y).toNat n.toNat c r
    · rw [(hcell' c r).1 hcov, (hcell c r).1 hcov, Bool.not_not]
    · rw [(hcell' c r).2 hcov, (hcell c r).2 hcov]
  obtain ⟨hpstd, hpext⟩ := planes_eq_of_activeCell ((hframe'.mode (by decide)).trans hmode)
    (fun hm => (hext' (hmode.trans hm)).trans (hext hm))
    (fun hm => (hstd' (hmode.trans hm)).trans (hstd hm)) hback
  refine ⟨t, u, hst, htu, hpstd, hpext, fun ⟨c, r, hcov, hclear⟩ => hon ⟨c, r, hcov, ?_⟩,
    fun hset => hoff fun c r hcov => ?_⟩
  · rw [(hcell c r).1 hcov, hclear, Bool.not_false]
  · rw [(hcell c r).1 hcov, hset c r hcov, Bool.not_true]

/-- Settles O48: the range check fails, so only the record is written. -/
theorem drawPastMemoryFaults : Obligations.DrawPastMemoryFaults := fun x y n s hn hpast =>
  ⟨_, State.withBlock_of_past _ hn hpast, by rw [← encode_drw]; rfl, rfl, (Frame.refl s).raise _ _ _⟩

/-- Settles O49: the range check of no byte passes, and a sprite without rows writes VF alone. -/
theorem zeroRowDrawOnlyClearsTheFlag : Obligations.ZeroRowDrawOnlyClearsTheFlag := by
  intro x y s
  have hx : exec (.drw x y 0) s = .next (s.setFlag false).markDrawn.advance := by
    rw [← s.drawSprite_nil (s.getV x).toNat (s.getV y).toNat]
    exact exec_drw_of_fits x y fun k hk => absurd hk (Nat.not_lt_zero k)
  exact ⟨_, hx, fallsThrough_of_pc_eq rfl, by simp [flagByte], rfl,
    fun j hj => s.getV_setFlag_ne false (List.ne_of_not_mem_cons hj),
    ((Frame.refl s).setFlag _).markDrawn.advance⟩

end Sys2Proof.Machine

/-! SUPPORT. The key skips (47_keys_E.md R170, R171): the two ends of the shared operation, and the words
of the two instructions as numbers. -/

namespace Sys2Proof.Machine

/-! ## A skip on a key's level -/

section
variable (s : State) (i : Instr) {k : Byte} (wanted : Bool)

/-- A byte that names a key: the level decides between the skip and the next instruction, and only the pc
is written (40_step_cycle.md R94). -/
theorem State.skipOnKey_of_key (hkey : k.toNat ≤ 0xF) :
    ∃ t, s.skipOnKey i k wanted = .next t ∧ Frame [] s t ∧
      (s.keys.getD k.toNat false = wanted → Skips s t) ∧
      (s.keys.getD k.toNat false = !wanted → FallsThrough s t) := by
  rcases s.skipOnKey_cases i k wanted with ⟨hno, _⟩ | ⟨hlt, he⟩
  · exact absurd hkey (Nat.not_le.mpr hno)
  · rw [vector_getD_of_lt _ _ hlt]
    refine ⟨_, he, (Frame.refl s).skipIf _, fun hlevel => skips_of_pc_eq ?_,
      fun hlevel => fallsThrough_of_pc_eq ?_⟩ <;> simp [hlevel]

/-- A byte that names no key: only KEY_OUT_OF_RANGE is recorded, with the byte itself, not masked
(60_exceptions.md R206). -/
theorem State.skipOnKey_of_no_key (hno : 0xF < k.toNat) :
    ∃ t, s.skipOnKey i k wanted = .next t ∧
      t.fault = some ⟨.keyOutOfRange, s.pc, some (encode i), some k.toNat⟩ ∧
      t.pc = s.pc ∧ Frame [.fault] s t := by
  rcases s.skipOnKey_cases i k wanted with ⟨_, he⟩ | ⟨hlt, _⟩
  · exact ⟨_, he, rfl, rfl, (Frame.refl s).raise _ _ _⟩
  · omega

end

/-! ## The words of family E -/

theorem formatXNN_familyE (x : Reg) (nn : Byte) :
    formatXNN 0xE x nn = BitVec.ofNat 16 (0xE000 + nn.toNat + x.toNat * 256) := by
  refine BitVec.eq_of_toNat_eq ((formatXNN_toNat 0xE x nn).trans ?_)
  rw [BitVec.toNat_ofNat, Nat.mod_eq_of_lt (by omega), Nat.add_right_comm]
  rfl

theorem encode_skp (x : Reg) :
    encode (.skp x) = BitVec.ofNat 16 (0xE09E + x.toNat * 256) := formatXNN_familyE x 0x9E

theorem encode_sknp (x : Reg) :
    encode (.sknp x) = BitVec.ofNat 16 (0xE0A1 + x.toNat * 256) := formatXNN_familyE x 0xA1

/-! ## The obligation -/

/-- Settles O51: one operation with the level wanted 1 and 0; whether it faults is whether Vx names a
key. -/
theorem keySkipsTestTheNamedKey : Obligations.KeySkipsTestTheNamedKey := by
  intro x s
  rw [← encode_skp, ← encode_sknp]
  exact ⟨fun hkey => ⟨s.skipOnKey_of_key (.skp x) true hkey, s.skipOnKey_of_key (.sknp x) false hkey⟩,
    fun hno => ⟨s.skipOnKey_of_no_key (.skp x) true hno, s.skipOnKey_of_no_key (.sknp x) false hno⟩⟩

end Sys2Proof.Machine

/-! SUPPORT. Faults and events over a step (60_exceptions.md R201 to R207, R220): the condition under
which an instruction faults and what it then records, what a step leaves of a fault, and the events it
appends. -/

namespace Sys2Proof.Machine

/-! ## An instruction that faults -/

/-- The instructions that touch memory at I, with the number of bytes each touches (20_memory.md R60). -/
inductive TouchesBlock : Instr → Nat → Prop
  | drw (x y : Reg) (n : Count) : TouchesBlock (.drw x y n) n.toNat
  | ldB (x : Reg) : TouchesBlock (.ldB x) 3
  | storeRegs (x : Reg) : TouchesBlock (.storeRegs x) (x.toNat + 1)
  | loadRegs (x : Reg) : TouchesBlock (.loadRegs x) (x.toNat + 1)

/-- The fault record is as it was, or the instruction did nothing but raise a fault of its own, under its
own word, that the state explains. -/
def RaisesOrKeeps (i : Instr) (s t : State) : Prop :=
  t.fault = s.fault ∨ ∃ kind addr, t = s.raise kind (some (encode i)) addr ∧
    FaultRecord.explains ⟨kind, s.pc, some (encode i), addr⟩ s

@[simp] theorem State.drawSprite_fault (s : State) (x y : Nat) (sprite : List Byte) :
    (s.drawSprite x y sprite).fault = s.fault := by
  rcases s.drawSprite_cases x y sprite with ⟨_, he⟩ | ⟨_, he⟩ <;> rw [he] <;> rfl

section
variable {i : Instr} {s t : State}

/-- A block that reaches past memory explains MEM_OUT_OF_RANGE (60_exceptions.md R203). -/
theorem explains_memOutOfRange {len : Nat} (hi : TouchesBlock i len) (hlen : 0 < len)
    (hout : 0xFFF < s.ireg.toNat + len - 1) : FaultRecord.explains
      ⟨.memOutOfRange, s.pc, some (encode i), some (max s.ireg.toNat 0x1000)⟩ s := by
  refine ⟨rfl, encode i, len, rfl, rfl, hlen, hout, ?_⟩
  cases hi with
  | drw x y n => exact .inl ⟨x, y, n, decodeWord_encode _, rfl⟩
  | ldB x => exact .inr (.inl ⟨x, decodeWord_encode _, rfl⟩)
  | storeRegs x => exact .inr (.inr (.inl ⟨x, decodeWord_encode _, rfl⟩))
  | loadRegs x => exact .inr (.inr (.inr ⟨x, decodeWord_encode _, rfl⟩))

theorem raisesOrKeeps_of_withBlock {len : Nat} {done : State} (hi : TouchesBlock i len)
    (h : s.withBlock i len done = .next t) (hdone : done.fault = s.fault) : RaisesOrKeeps i s t := by
  rcases s.withBlock_cases i len done with ⟨_, he⟩ | ⟨⟨hlen, hout⟩, he⟩ <;> cases he.symm.trans h
  · exact .inl hdone
  · exact .inr ⟨_, _, rfl, explains_memOutOfRange hi hlen hout⟩

theorem raisesOrKeeps_of_skipOnKey {x : Reg} {wanted : Bool} (hi : i = .skp x ∨ i = .sknp x)
    (h : s.skipOnKey i (s.getV x) wanted = .next t) : RaisesOrKeeps i s t := by
  rcases s.skipOnKey_cases i (s.getV x) wanted with ⟨hno, he⟩ | ⟨_, he⟩ <;> cases he.symm.trans h
  · refine .inr ⟨_, _, rfl, rfl, encode i, x, rfl, ?_, hno, rfl⟩
    rw [decodeWord_encode]
    exact hi.imp (congrArg Except.ok) (congrArg Except.ok)
  · exact .inl rfl

/-- An instruction keeps the fault record, or raises a fault that the state explains and does nothing
else (60_exceptions.md R203 to R207). -/
theorem exec_raisesOrKeeps (h : exec i s = .next t) : RaisesOrKeeps i s t := by
  cases i with
  | ret =>
    rcases Nat.eq_zero_or_pos s.sp.val with hzero | hpos
    · cases (execRet_of_empty hzero).symm.trans h
      exact .inr ⟨_, _, rfl, rfl, hzero, rfl, rfl⟩
    · cases (execRet_of_pos hpos).symm.trans h; exact .inl rfl
  | call nnn =>
    rcases Nat.lt_or_ge s.sp.val 16 with hlt | hge
    · cases (execCall_of_lt nnn hlt).symm.trans h; exact .inl rfl
    · have hfull : s.sp.val = 16 := by omega
      cases (execCall_of_full nnn hfull).symm.trans h
      exact .inr ⟨_, _, rfl, rfl, hfull, rfl, _, nnn, rfl, decodeWord_encode _⟩
  | drw x y n => exact raisesOrKeeps_of_withBlock (.drw x y n) h (s.drawSprite_fault ..)
  | ldB x => exact raisesOrKeeps_of_withBlock (.ldB x) h rfl
  | storeRegs x => exact raisesOrKeeps_of_withBlock (.storeRegs x) h rfl
  | loadRegs x => exact raisesOrKeeps_of_withBlock (.loadRegs x) h rfl
  | skp x => exact raisesOrKeeps_of_skipOnKey (.inl rfl) h
  | sknp x => exact raisesOrKeeps_of_skipOnKey (.inr rfl) h
  | _ => exact .inl ((exec_frame h).fault (by simp [writtenParts]))

end

/-! ## A step that faults -/

/-- What a step leaves of a fault: the state as it was, or no fault, or the state with nothing written
but a record of the pc and the fetched word, which the state explains (60_exceptions.md R202, R207). -/
theorem step_fault {s t : State} (h : step s = .next t) :
    t = s ∨ t.fault = none ∨
    ∃ f, t = { s with fault := some f } ∧ f.pc = s.pc ∧ f.op = s.fetch ∧ f.explains s := by
  rcases step_cases s with ⟨_, he⟩ | ⟨_, hpc, he⟩ | ⟨op, _, hen, _, _, he⟩ |
    ⟨op, i, u, hen, hf, hd, hx, he⟩ <;> cases he.symm.trans h
  · exact .inl rfl
  · exact .inr (.inr ⟨_, rfl, rfl, (State.fetch_eq_none hpc).symm, rfl, hpc, rfl, rfl⟩)
  · obtain ⟨_, hnone⟩ := s.enabled_iff.mp hen
    rw [State.tick_spec]; exact .inr (.inl hnone)
  · obtain ⟨_, hnone⟩ := s.enabled_iff.mp hen
    rcases exec_raisesOrKeeps hx with hkept | ⟨kind, addr, rfl, hexp⟩
    · rcases State.commit_eq (ending i s u) s u with hc | hc | hc <;> rw [hc]
      · rw [State.tick_spec]; exact .inr (.inl (hkept.trans hnone))
      · exact .inl rfl
      · exact .inr (.inl (hkept.trans hnone))
    · rw [ending_of_fault (by simp), State.commit_faulted]
      have hword : some (encode i) = s.fetch := by rw [hf, encodeOfDecodeIsTheWord op i hd]
      exact .inr (.inr ⟨_, rfl, rfl, hword, hexp⟩)

/-- Settles O16: a record the step wrote is explained by the state before it, and the step kept every part
that the explanation reads. -/
theorem stepKeepsFaultExplained : Obligations.StepKeepsFaultExplained := by
  intro s t hs h f hf
  rcases step_fault h with rfl | hnone | ⟨g, rfl, _, _, hexp⟩
  · exact hs f hf
  · cases hnone.symm.trans hf
  · cases hf; exact hexp

/-- Settles O13: the step had no fault to keep, so it wrote its own record and nothing else; a state with
a record is not enabled. -/
theorem faultingStepWritesOnlyTheRecord : Obligations.FaultingStepWritesOnlyTheRecord := by
  intro s t f _ hnone h hf
  have hinert : step t = .next t :=
    stepWith_of_not_enabled _ (t.enabled_eq_false.mpr (.inr (by simp [hf])))
  rcases step_fault h with rfl | hnone' | ⟨g, rfl, hpc, hop, _⟩
  · cases hnone.symm.trans hf
  · cases hnone'.symm.trans hf
  · cases hf; exact ⟨rfl, hpc, hop, hinert⟩

/-! ## The events of a step -/

/-- The tick appends the silence cue or nothing (40_step_cycle.md R96). -/
theorem State.tick_eventStream (s : State) :
    ∃ cue, (cue = [] ∨ cue = [.silence]) ∧ s.tick.eventStream = s.eventStream ++ cue := by
  by_cases hst : s.tick.st.toNat = 0
  · exact ⟨_, .inr rfl, State.tick_eventStream_of_silent hst⟩
  · exact ⟨_, .inl rfl, by simp [State.tick_eventStream_of_sounding hst]⟩

/-- An UNKNOWN word's report (40_step_cycle.md R99). -/
theorem execUnknown_eventStream (op : Word) (s : State) :
    (execUnknown op s).eventStream = s.eventStream ++ [.unknownOpcode op] := s.emit_eventStream _

/-- A step appends a report of the fetched word or none, and then a silence cue or none
(40_step_cycle.md R96, R99, R101). -/
theorem step_eventStream {s t : State} (h : step s = .next t) :
    ∃ report cue, (report = [] ∨ ∃ op, s.fetch = some op ∧ report = [.unknownOpcode op]) ∧
      (cue = [] ∨ cue = [.silence]) ∧ t.eventStream = s.eventStream ++ (report ++ cue) := by
  have quiet : s.eventStream = s.eventStream ++ ([] ++ []) := by simp
  rcases step_cases s with ⟨_, he⟩ | ⟨_, _, he⟩ | ⟨op, _, _, hf, _, he⟩ |
    ⟨op, i, u, _, _, _, hx, he⟩ <;> cases he.symm.trans h
  · exact ⟨[], [], .inl rfl, .inl rfl, quiet⟩
  · exact ⟨[], [], .inl rfl, .inl rfl, quiet⟩
  · obtain ⟨cue, hcue, htick⟩ := (execUnknown op s).tick_eventStream
    exact ⟨_, cue, .inr ⟨op, hf, rfl⟩, hcue,
      by rw [htick, execUnknown_eventStream, List.append_assoc]⟩
  · have hkept : u.eventStream = s.eventStream :=
      congrArg List.reverse ((exec_frame hx).events (events_not_mem_writtenParts i))
    rcases State.commit_eq (ending i s u) s u with hc | hc | hc <;> rw [hc]
    · obtain ⟨cue, hcue, htick⟩ := u.tick_eventStream
      exact ⟨[], cue, .inl rfl, hcue, by rw [htick, hkept, List.nil_append]⟩
    · exact ⟨[], [], .inl rfl, .inl rfl, quiet⟩
    · exact ⟨[], [], .inl rfl, .inl rfl, hkept.trans quiet⟩

/-- Settles O27: at most one report and one cue, and the report names the fetched word. -/
theorem stepOnlyAppendsEvents : Obligations.StepOnlyAppendsEvents := by
  intro s t h
  obtain ⟨report, cue, hreport, hcue, hev⟩ := step_eventStream h
  refine ⟨_, hev, ?_, fun op hop => ?_⟩
  · rcases hreport with rfl | ⟨_, _, rfl⟩ <;> rcases hcue with rfl | rfl <;> simp
  · have hmem : Event.unknownOpcode op ∈ report :=
      (List.mem_append.mp hop).resolve_right (by rcases hcue with rfl | rfl <;> simp)
    rcases hreport with rfl | ⟨_, hf, rfl⟩
    · cases hmem
    · cases List.mem_singleton.mp hmem; exact hf

end Sys2Proof.Machine

/-! SUPPORT. Family F (48_familyF.md): the words of the family, the two ends of an instruction that
touches memory at I, and what the digit store, the block store and the block load leave. -/

namespace Sys2Proof.Machine

/-! ## The words -/

theorem formatXNN_eq_ofNat (f : BitVec 4) (x : Reg) (nn : Byte) :
    formatXNN f x nn = BitVec.ofNat 16 (f.toNat * 4096 + nn.toNat + x.toNat * 256) := by
  refine BitVec.eq_of_toNat_eq ((formatXNN_toNat f x nn).trans ?_)
  rw [BitVec.toNat_ofNat, Nat.mod_eq_of_lt (by omega), Nat.add_right_comm]

theorem encode_ldB (x : Reg) :
    encode (.ldB x) = BitVec.ofNat 16 (0xF033 + x.toNat * 256) := formatXNN_eq_ofNat 0xF x 0x33

theorem encode_storeRegs (x : Reg) :
    encode (.storeRegs x) = BitVec.ofNat 16 (0xF055 + x.toNat * 256) := formatXNN_eq_ofNat 0xF x 0x55

theorem encode_loadRegs (x : Reg) :
    encode (.loadRegs x) = BitVec.ofNat 16 (0xF065 + x.toNat * 256) := formatXNN_eq_ofNat 0xF x 0x65

/-! ## A block that reaches past memory -/

/-- Only MEM_OUT_OF_RANGE is recorded, with the lowest address past memory (20_memory.md R60,
60_exceptions.md R203). -/
theorem State.withBlock_past_spec {s : State} {i : Instr} {len : Nat} (done : State) (hlen : 0 < len)
    (hpast : 0xFFF < s.ireg.toNat + len - 1) :
    ∃ t, s.withBlock i len done = .next t ∧
      t.fault = some ⟨.memOutOfRange, s.pc, some (encode i), some (max s.ireg.toNat 0x1000)⟩ ∧
      t.pc = s.pc ∧ Frame [.fault] s t :=
  ⟨_, State.withBlock_of_past done hlen hpast, rfl, rfl, (Frame.refl s).raise _ _ _⟩

/-! ## The block store and the block load -/

/-- Settles O57: the range check decides; within memory the block holds V0 to Vx and the rest is kept. -/
theorem blockStoreWritesV0ToVx : Obligations.BlockStoreWritesV0ToVx := by
  intro x s
  rw [← encode_storeRegs]
  refine ⟨fun hfits => ?_, fun hpast => State.withBlock_past_spec _ (Nat.succ_pos _) hpast⟩
  have hx : exec (.storeRegs x) s =
      .next (s.setMem (storeBlock s.vreg s.mem s.ireg.toNat (x.toNat + 1))).advance :=
    State.withBlock_of_fits _ fun k hk => by omega
  exact ⟨_, hx, fallsThrough_of_pc_eq rfl, fun j hj => read_of_execStoreRegs hx hfits hj,
    fun a ha => Memory.read_storeBlock_outside _ _ (by omega), ((Frame.refl s).setMem _).advance⟩

/-- The block load puts the j-th byte of the block into V[j] (48_familyF.md R189). -/
theorem getV_loadBlock_of_le {t : State} {x j : Reg} (v : Vector Byte 16) (m : Memory) (a : Nat)
    (ht : t.vreg = loadBlock v m a (x.toNat + 1)) (hj : j.toNat ≤ x.toNat) :
    t.getV j = Memory.read m (a + j.toNat) := by
  have hload := getD_loadBlock v m a (k := x.toNat + 1) (by omega) j.isLt
  rw [if_pos (by omega), vector_getD_of_lt _ _ j.isLt] at hload
  simpa only [State.getV, ht] using hload

/-- Settles O58: the range check decides; within memory V0 to Vx come from the block and the rest is
kept. -/
theorem blockLoadReadsV0ToVx : Obligations.BlockLoadReadsV0ToVx := by
  intro x s
  rw [← encode_loadRegs]
  refine ⟨fun hfits => ?_, fun hpast => State.withBlock_past_spec _ (Nat.succ_pos _) hpast⟩
  have hx : exec (.loadRegs x) s =
      .next { s with vreg := loadBlock s.vreg s.mem s.ireg.toNat (x.toNat + 1) }.advance :=
    State.withBlock_of_fits _ fun k hk => by omega
  exact ⟨_, hx, fallsThrough_of_pc_eq rfl, fun j hj => getV_loadBlock_of_le _ _ _ rfl hj,
    fun j hj => getV_loadBlock_of_lt _ _ rfl hj, { Frame.refl s with regs := by simp }⟩

/-- Settles O59: the load reads the block the store has written, at the I the store has kept. -/
theorem blockStoreThenLoadRestores : Obligations.BlockStoreThenLoadRestores := by
  intro x s v hfits
  obtain ⟨t, hst, _, hstored, _, hframe⟩ := (blockStoreWritesV0ToVx x s).1 hfits
  have hireg : t.ireg = s.ireg := hframe.ireg (by decide)
  obtain ⟨u, htu, _, hloaded, hkept, _⟩ :=
    (blockLoadReadsV0ToVx x { t with vreg := v }).1 (by rwa [← hireg] at hfits)
  refine ⟨t, u, hst, htu, fun j hj => ?_, fun j hj => ?_⟩
  · rw [hloaded j hj, ← hstored j hj, ← hireg]
  · rw [hkept j hj, vector_getD_of_lt v 0 j.isLt]; rfl

/-! ## The key wait -/

/-- Fx0A with a key pressed stores the one drawn and falls through (48_familyF.md R181). -/
theorem exec_ldVxK_of_key {s : State} (x : Reg) (h : s.pressedKeys ≠ []) : exec (.ldVxK x) s =
    .next (s.countDraw.setV x (BitVec.ofNat 8 (chooseKey s.draws s.pressedKeys))).advance := if_neg h

/-- Settles O52: with no key the instruction waits; else the key drawn, whichever it is, is one of those
pressed, and its index fits a byte. -/
theorem keyWaitStoresAPressedKey : Obligations.KeyWaitStoresAPressedKey := by
  refine fun x s => ⟨fun hnone => ?_, fun ⟨k, hk, hdown⟩ => ?_⟩
  · refine exec_ldVxK_of_no_key x (s.pressedKeys_eq_nil.mpr fun k hk => ?_)
    rw [← vector_getD_of_lt s.keys false hk]; exact hnone k hk
  · rw [vector_getD_of_lt s.keys false hk] at hdown
    have hsome : s.pressedKeys ≠ [] := List.ne_nil_of_mem ((s.mem_pressedKeys k).mpr ⟨hk, hdown⟩)
    obtain ⟨hlt, hpressed⟩ := (s.mem_pressedKeys _).mp (chooseKey_mem s.draws hsome)
    have hx := exec_ldVxK_of_key x hsome
    obtain ⟨hpc, hvx, hkept, _⟩ := s.countDraw.setV_advance_spec x
      (BitVec.ofNat 8 (chooseKey s.draws s.pressedKeys))
    have hkey := (congrArg BitVec.toNat hvx).trans (BitVec.toNat_ofNat ..)
    rw [Nat.mod_eq_of_lt (by omega)] at hkey
    refine ⟨_, hx, hpc, hkey.trans_lt hlt, ?_, hkept, exec_frame hx⟩
    rw [hkey, vector_getD_of_lt _ _ hlt]; exact hpressed

/-! ## The timers, I and the glyph addresses -/

/-- Settles O53: each copies one byte; the tick then counts the timer down by its own rule. -/
theorem timerTransfersCopy : Obligations.TimerTransfersCopy := by
  intro x s
  have hdt : exec (.ldDtVx x) s = .next (s.setDt (s.getV x)).advance := rfl
  have hst : exec (.ldStVx x) s = .next (s.setSt (s.getV x)).advance := rfl
  have hsound := (s.setSt (s.getV x)).advance.tick_st_toNat
  refine ⟨⟨_, rfl, s.setV_advance_spec x s.dt⟩,
    ⟨_, hdt, fallsThrough_of_pc_eq rfl, rfl, State.tick_dt_toNat _, exec_frame hdt⟩,
    ⟨_, hst, fallsThrough_of_pc_eq rfl, rfl, hsound, fun hle => ?_, exec_frame hst⟩⟩
  exact State.tick_eventStream_of_silent (hsound.trans (Nat.sub_eq_zero_of_le hle))

theorem indexByte_toNat (new : Word) :
    (flagByte (indexFlag new)).toNat = if 0xFFF < new.toNat then 1 else 0 := by
  rw [flagByte_toNat, indexFlag]
  exact Bool.cond_decide ..

/-- Settles O54: I is written first, and VF from what I then holds. -/
theorem indexAddSetsTheFlagFromTheNewI : Obligations.IndexAddSetsTheFlagFromTheNewI := by
  intro x s
  have hx : exec (.addI x) s = .next ((s.setI (s.ireg + (s.getV x).setWidth 16)).setFlag
      (indexFlag (s.ireg + (s.getV x).setWidth 16))).advance := rfl
  generalize hnew : s.ireg + (s.getV x).setWidth 16 = new at hx
  have hireg : new.toNat = (s.ireg.toNat + (s.getV x).toNat) % 65536 := by
    rw [← hnew, BitVec.toNat_add, BitVec.toNat_setWidth_of_le (by decide)]
  have hvf : (((s.setI new).setFlag (indexFlag new)).getV Reg.flag).toNat = _ :=
    (congrArg BitVec.toNat (State.getV_setFlag_same _ _)).trans (indexByte_toNat new)
  exact ⟨_, hx, fallsThrough_of_pc_eq rfl, hireg, fun hbig => hvf.trans (if_pos hbig),
    fun hsmall => hvf.trans (if_neg (Nat.not_lt.mpr hsmall)),
    fun j hj => State.getV_setFlag_ne _ _ (List.ne_of_not_mem_cons hj), exec_frame hx⟩

/-- A glyph's address never wraps: 255 * 10 lies far below 65536 (48_familyF.md R185, R186). -/
theorem glyphAddress_toNat {size : Nat} (vx : Byte) (h : size ≤ 10) :
    (glyphAddress size vx).toNat = vx.toNat * size := by
  have hle : vx.toNat * size ≤ 255 * 10 := Nat.mul_le_mul (by omega) h
  exact (BitVec.toNat_ofNat ..).trans (Nat.mod_eq_of_lt (by omega))

/-- Settles O55: both products fit 16 bits. -/
theorem glyphAddressesAreExact : Obligations.GlyphAddressesAreExact := by
  intro x s
  have hsmall : exec (.ldF x) s = .next (s.setI (glyphAddress 5 (s.getV x))).advance := rfl
  have hlarge : exec (.ldHf x) s = .next (s.setI (glyphAddress 10 (s.getV x))).advance := rfl
  exact ⟨⟨_, hsmall, fallsThrough_of_pc_eq rfl, glyphAddress_toNat _ (by decide), exec_frame hsmall⟩,
    ⟨_, hlarge, fallsThrough_of_pc_eq rfl, glyphAddress_toNat _ (by decide), exec_frame hlarge⟩⟩

/-! ## The decimal digits -/

/-- The three digits as numbers (48_familyF.md R187). -/
theorem decimalDigits_toNat (v : Byte) :
    ((decimalDigits v).getD 0 0).toNat = v.toNat / 100 ∧
    ((decimalDigits v).getD 1 0).toNat = v.toNat / 10 % 10 ∧
    ((decimalDigits v).getD 2 0).toNat = v.toNat % 10 := by
  simp only [decimalDigits, List.getD_cons_zero, List.getD_cons_succ, BitVec.toNat_ofNat]
  omega

/-- Settles O56: the range check decides; within memory each digit is at its place and the rest is
kept. -/
theorem bcdStoresThreeDigits : Obligations.BcdStoresThreeDigits := by
  intro x s
  rw [← encode_ldB]
  refine ⟨fun hfits => ?_, fun hpast => State.withBlock_past_spec _ (Nat.succ_pos _) hpast⟩
  have hx : exec (.ldB x) s = .next
      (s.setMem (Memory.writeBytes s.mem s.ireg.toNat (decimalDigits (s.getV x)))).advance :=
    State.withBlock_of_fits _ fun k hk => by omega
  have hdigit (k : Nat) (hk : k < 3) :=
    Memory.read_writeBytes_inside (decimalDigits (s.getV x)) s.mem (a := s.ireg.toNat) hk
      (by simp only [Config.memSize]; omega)
  obtain ⟨hhundreds, htens, hunits⟩ := decimalDigits_toNat (s.getV x)
  exact ⟨_, hx, fallsThrough_of_pc_eq rfl,
    (congrArg BitVec.toNat (hdigit 0 (by decide))).trans hhundreds,
    (congrArg BitVec.toNat (hdigit 1 (by decide))).trans htens,
    (congrArg BitVec.toNat (hdigit 2 (by decide))).trans hunits,
    fun a ha => Memory.read_writeBytes_outside _ _ ha, ((Frame.refl s).setMem _).advance⟩

end Sys2Proof.Machine

/-! SUPPORT. Construction, the host's moves, and the run of a machine without an image
(60_exceptions.md R217 to R219; 70_reset_and_hazards.md R230 to R237). -/

namespace Sys2Proof.Machine

/-! ## Construction -/

@[simp] theorem State.reset_getV (j : Reg) : State.reset.getV j = 0 := by
  simp [State.getV, State.reset]

/-- Construction leaves no address but those of FONT other than 0 (70_reset_and_hazards.md R230). -/
theorem Memory.read_construct_of_le (fontBytes : Vector Byte 80) {a : Nat} (h : 80 ≤ a) :
    Memory.read (State.construct fontBytes).mem a = 0 :=
  (Memory.read_construct fontBytes a).trans (dif_neg (Nat.not_lt.mpr h))

theorem reset_pcInReach : PcInReach State.reset :=
  ⟨by decide, fun j hj => by simp [State.reset]⟩

theorem faultExplained_of_safe {s : State} (h : s.safe) : FaultExplained s :=
  fun _ hf => nomatch h.symm.trans hf

/-- Settles O17: construction writes bytes to an empty list, and the pc, the stack and the fault record
are those of the reset state whatever FONT holds. -/
theorem resetMeetsTheInvariants : Obligations.ResetMeetsTheInvariants :=
  ⟨fun font => ⟨Memory.wf_writeBytes font.toList 0 rfl, reset_pcInReach, faultExplained_of_safe rfl⟩,
    rfl, reset_pcInReach, faultExplained_of_safe rfl⟩

/-- Bytes that empty memory reads as anyway leave it empty (log entry 10). -/
theorem Memory.writeBytes_unlisted {bytes : List Byte} {a : Nat}
    (h : ∀ k, k < bytes.length → bytes.getD k 0 = Memory.unlisted (a + k)) :
    Memory.writeBytes [] a bytes = [] := by
  induction bytes generalizing a with
  | nil => rfl
  | cons v rest ih =>
    have hfirst : v = Memory.unlisted a := h 0 (Nat.succ_pos _)
    have hwrite : Memory.write [] a v = [] := by simp [Memory.write, Memory.erase, hfirst]
    rw [Memory.writeBytes, hwrite]
    refine ih fun k hk => ?_
    rw [Nat.add_assoc, Nat.add_comm 1 k]
    exact h (k + 1) (Nat.succ_lt_succ hk)

/-- With FONT at its default the constructed state is the reset state. -/
theorem construct_default_font : State.construct Parameters.defaults.font = State.reset :=
  congrArg (fun m => { State.reset with mem := m })
    (Memory.writeBytes_unlisted fun k _ => by rw [Nat.zero_add]; rfl)

/-- Settles O18: memory by `Memory.read_construct`, the rest as the reset state holds it, whatever FONT
and whatever the session did before. -/
theorem resetLeavesTheConstructedState : Obligations.ResetLeavesTheConstructedState := by
  refine ⟨fun p c => ⟨_, rfl, rfl, fun a h => ?_, fun a h => Memory.read_construct_of_le p.font h, rfl,
    State.reset_getV, rfl, rfl, rfl, fun j hj => ?_, rfl, fun k hk => ?_, fun c r => ⟨?_, ?_⟩, rfl, rfl,
    rfl, rfl, rfl⟩, construct_default_font, by decide⟩
  · exact (Memory.read_construct p.font a).trans (dif_pos h)
  · simp [State.reset]
  · simp [State.reset]
  · exact Plane.cell_clear c r
  · exact Plane.cell_clear c r

/-! ## The host's moves -/

/-- Settles O21: each move writes its own field, and Load asks first whether a Step has been requested. -/
theorem hostMovesWriteTheirOwnFlag : Obligations.HostMovesWriteTheirOwnFlag := by
  refine fun p c k b => ⟨⟨_, rfl, rfl, rfl, fun j => ?_, { Frame.refl c.core with keys := by simp }⟩,
    ⟨_, rfl, rfl, rfl, rfl, (Frame.refl c.core).halt⟩,
    ⟨_, rfl, rfl, rfl, rfl, { Frame.refl c.core with drawPending := by simp }⟩,
    fun _ hstepped => if_pos hstepped⟩
  simp only [State.setKey, Vector.getElem_set, Fin.val_inj, eq_comm]

section
variable {p : Parameters} {c : Session} {img : List Byte} (hstepped : c.stepped = false)
include hstepped

/-- Before the first Step an image that fits is copied to 0x200 (70_reset_and_hazards.md R233). -/
theorem Session.transact_load_of_fits (h : img.length ≤ 3584) :
    c.transact p (.load img) = .next { c with core := c.core.loadImage img } := by
  simp [Session.transact, hstepped, Nat.not_lt.mpr h]

/-- Before the first Step a longer image ends the run (70_reset_and_hazards.md R234). -/
theorem Session.transact_load_of_too_large (h : 3584 < img.length) :
    c.transact p (.load img) = .fault (.imageTooLarge img.length) := by
  simp [Session.transact, hstepped, h]

end

/-- Settles O19: the copy is a write at rising addresses from 0x200, of which 3584 bytes reach the end
of memory. -/
theorem loadCopiesTheImage : Obligations.LoadCopiesTheImage := by
  refine fun p c img => ⟨fun hstepped hfits => ?_, Session.transact_load_of_too_large⟩
  exact ⟨_, Session.transact_load_of_fits hstepped hfits, hstepped,
    fun j hj => Memory.read_writeBytes_inside img _ hj (by
      simp only [Config.memSize, Config.progBase]; omega),
    fun a ha => Memory.read_writeBytes_outside img _ ha, rfl, (Frame.refl c.core).setMem _⟩

/-! ## The run without an image -/

theorem run_succ_of_step {s s' : State} (h : step s = .next s') (k : Nat) :
    Host.Core.run Sys2Proof.core (k + 1) s = Host.Core.run Sys2Proof.core k s' := by
  have hstep : Sys2Proof.core.step s = .next s' := h
  simp only [Host.Core.run, hstep]

/-- Every step answers a next state. -/
theorem step_next (s : State) : ∃ t, step s = .next t := by
  rcases step_cases s with ⟨_, he⟩ | ⟨_, _, he⟩ | ⟨_, _, _, _, _, he⟩ | ⟨_, _, _, _, _, _, _, he⟩ <;>
    exact ⟨_, he⟩

/-- One step more at the end of a run. -/
theorem run_snoc {s t u : State} {k : Nat} (hrun : Host.Core.run Sys2Proof.core k s = .next t)
    (hstep : step t = .next u) : Host.Core.run Sys2Proof.core (k + 1) s = .next u := by
  induction k generalizing s with
  | zero => cases hrun; exact run_succ_of_step hstep 0
  | succ k ih =>
    obtain ⟨s', hfirst⟩ := step_next s
    rw [run_succ_of_step hfirst] at hrun ⊢
    exact ih hrun

/-- With both timers 0 the tick is the silence cue alone (40_step_cycle.md R95, R96). -/
theorem State.tick_of_timers_zero {s : State} (hdt : s.dt = 0) (hst : s.st = 0) :
    s.tick = s.emit .silence := by
  simp [s.tick_spec, hdt, hst, State.emit]

/-- What a run of `k` steps without an image leaves: the pc `k` words on, `k` reports of 0000, each with
its silence cue, and nothing else changed (70_reset_and_hazards.md R237). -/
def RanWithoutImage (fontBytes : Vector Byte 80) (k : Nat) (t : State) : Prop :=
  t.pc.toNat = 0x200 + 2 * k ∧
  t.eventStream = (List.replicate k [Event.unknownOpcode 0x0000, Event.silence]).flatten ∧
  Frame [.events] (State.construct fontBytes) t

section
variable {fontBytes : Vector Byte 80} {k : Nat} {t : State}

/-- Such a state is still running and has met no fault. -/
theorem RanWithoutImage.enabled (h : RanWithoutImage fontBytes k t) :
    t.running = true ∧ t.fault = none := by
  obtain ⟨_, _, hframe⟩ := h
  exact ⟨hframe.running (by decide), hframe.fault (by decide)⟩

/-- The word at the pc, past FONT and inside memory, is 0000. -/
theorem RanWithoutImage.fetch (h : RanWithoutImage fontBytes k t) (hk : k < 1792) :
    t.fetch = some 0x0000 := by
  obtain ⟨hpc, _, hframe⟩ := h
  have hzero (a : Nat) (ha : 80 ≤ a) : Memory.read t.mem a = 0 :=
    (hframe.mem (by decide) a).trans (Memory.read_construct_of_le fontBytes ha)
  rw [State.fetch_eq_some (by omega), hzero _ (by omega), hzero _ (by omega)]
  rfl

/-- One step more reports 0000 and falls through; the timers are 0, so they stay and the cue follows. -/
theorem RanWithoutImage.step (h : RanWithoutImage fontBytes k t) (hk : k < 1792) :
    ∃ u, step t = .next u ∧ RanWithoutImage fontBytes (k + 1) u := by
  obtain ⟨hrun, hfault⟩ := h.enabled
  have hunknown := stepWith_of_unknown tickWhileWaiting (t.enabled_iff.mpr ⟨hrun, hfault⟩)
    (h.fetch hk) (show decodeWord 0x0000 = .error (.unknown 0x0000) from rfl)
  obtain ⟨hpc, hev, hframe⟩ := h
  have htick : (execUnknown 0x0000 t).tick = (execUnknown 0x0000 t).emit .silence :=
    State.tick_of_timers_zero (hframe.dt (by decide)) (hframe.st (by decide))
  rw [htick] at hunknown
  refine ⟨_, hunknown, ?_, ?_, (hframe.emit _).advance.emit _⟩
  · have hnext : FallsThrough t (execUnknown 0x0000 t) := fallsThrough_of_pc_eq rfl
    rw [FallsThrough, hpc] at hnext
    exact hnext.trans (by omega)
  · rw [State.emit_eventStream, execUnknown_eventStream, hev, List.replicate_succ',
      List.flatten_concat, List.append_assoc]
    rfl

end

/-- The run, step by step. -/
theorem run_without_image (fontBytes : Vector Byte 80) {k : Nat} (hk : k ≤ 1792) :
    ∃ t, Host.Core.run Sys2Proof.core k (State.construct fontBytes) = .next t ∧
      RanWithoutImage fontBytes k t := by
  induction k with
  | zero => exact ⟨_, rfl, rfl, rfl, Frame.refl _⟩
  | succ k ih =>
    obtain ⟨t, hrun, ht⟩ := ih (by omega)
    obtain ⟨u, hstep, hu⟩ := ht.step hk
    exact ⟨u, run_snoc hrun hstep, hu⟩

/-- Settles O20: by induction on the steps, each of which finds 0000 at the pc; after 1792 of them the pc
is 0x1000, where the fetch faults. -/
theorem emptyImageRunsToTheFetchFault : Obligations.EmptyImageRunsToTheFetchFault := by
  refine fun fontBytes => ⟨fun k hk => run_without_image fontBytes hk, ?_⟩
  obtain ⟨t, hrun, ht⟩ := run_without_image fontBytes (Nat.le_refl 1792)
  obtain ⟨hrunning, hnone⟩ := ht.enabled
  obtain ⟨hend, _⟩ := ht
  have hpc : t.pc = 0x1000 := BitVec.eq_of_toNat_eq hend
  obtain ⟨u, hstep, hfault, hpc', hframe⟩ :=
    fetchPastMemoryFaults t hrunning hnone (by rw [hpc]; decide)
  rw [hpc] at hfault hpc'
  exact ⟨u, run_snoc hrun hstep, congrArg BitVec.toNat hpc',
    (hframe.running (by decide)).trans hrunning, hfault⟩

end Sys2Proof.Machine
